-- ==== Sys2Proof/Word.lean ====
section
/-! DEFINITION. The widths of this hardware: a byte of memory and of a general register, the 16-bit word of an
instruction, of I, of pc and of a stack entry, the 12-bit address field, the 4-bit count field, and the number of a
general register (spec 10_state.md R20, R24, R25, R27; 30_encoding.md R81). -/

namespace Sys2Proof

/-- A byte: a memory cell, a general register, a timer (R20, R29, R53). -/
abbrev Byte := BitVec 8

/-- A 16-bit word: an instruction, I, pc, a stack entry (R24, R25, R27, R80). -/
abbrev Word := BitVec 16

/-- The 12-bit address field `nnn` (R81). -/
abbrev Addr12 := BitVec 12

/-- The 4-bit count field `n` (R81). -/
abbrev Nibble := BitVec 4

/-- The number of a general register, and of a key: 0 to 15 (R20, R30). -/
abbrev Reg := Fin 16

end Sys2Proof
end

