-- ==== Sys2Proof/Syntax.lean ====
section
/-! DEFINITION. The instruction set: one constructor per row of spec/opcode_table.json, in the table's order
(30_encoding.md R85). Operands carry the types of their fields (R81): a register number `x` or `y`, a byte `kk`,
a count `n`, an address `nnn`. The bits a row leaves undecoded are no operand (R86). -/

namespace Sys2Proof

/-- The 34 tags of 30_encoding.md R85. -/
inductive Instr where
  /-- `00E0` clear-screen (R110). -/
  | clearScreen
  /-- `00EE` return (R133). -/
  | ret
  /-- `1nnn` jump (R134). -/
  | jump (nnn : Addr12)
  /-- `2nnn` call (R135). -/
  | call (nnn : Addr12)
  /-- `3xkk` skip-if-equal-immediate (R136). -/
  | skipIfEqualImmediate (x : Reg) (kk : Byte)
  /-- `4xkk` skip-if-not-equal-immediate (R137). -/
  | skipIfNotEqualImmediate (x : Reg) (kk : Byte)
  /-- `5xy0` skip-if-equal-registers (R138). -/
  | skipIfEqualRegisters (x y : Reg)
  /-- `9xy0` skip-if-not-equal-registers (R139). -/
  | skipIfNotEqualRegisters (x y : Reg)
  /-- `6xkk` load-immediate (R160). -/
  | loadImmediate (x : Reg) (kk : Byte)
  /-- `7xkk` add-immediate (R161). -/
  | addImmediate (x : Reg) (kk : Byte)
  /-- `8xy0` alu-load (R162). -/
  | aluLoad (x y : Reg)
  /-- `8xy1` alu-or (R163). -/
  | aluOr (x y : Reg)
  /-- `8xy2` alu-and (R164). -/
  | aluAnd (x y : Reg)
  /-- `8xy3` alu-xor (R165). -/
  | aluXor (x y : Reg)
  /-- `8xy4` alu-add (R166). -/
  | aluAdd (x y : Reg)
  /-- `8xy5` alu-sub (R167). -/
  | aluSub (x y : Reg)
  /-- `8xy6` alu-shr (R168). -/
  | aluShr (x y : Reg)
  /-- `8xy7` alu-subn (R169). -/
  | aluSubn (x y : Reg)
  /-- `8xyE` alu-shl (R170). -/
  | aluShl (x y : Reg)
  /-- `Annn` load-index (R200). -/
  | loadIndex (nnn : Addr12)
  /-- `Bnnn` jump-offset (R140). -/
  | jumpOffset (nnn : Addr12)
  /-- `Cxkk` random (R181). -/
  | random (x : Reg) (kk : Byte)
  /-- `Dxyn` draw (R113). -/
  | draw (x y : Reg) (n : Nibble)
  /-- `Ex9E` skip-if-key-pressed (R231). -/
  | skipIfKeyPressed (x : Reg)
  /-- `ExA1` skip-if-key-not-pressed (R232). -/
  | skipIfKeyNotPressed (x : Reg)
  /-- `Fx07` load-delay-timer (R233). -/
  | loadDelayTimer (x : Reg)
  /-- `Fx0A` wait-for-key (R236). -/
  | waitForKey (x : Reg)
  /-- `Fx15` set-delay-timer (R234). -/
  | setDelayTimer (x : Reg)
  /-- `Fx18` set-sound-timer (R235). -/
  | setSoundTimer (x : Reg)
  /-- `Fx1E` add-to-index (R201). -/
  | addToIndex (x : Reg)
  /-- `Fx29` load-font-address (R202). -/
  | loadFontAddress (x : Reg)
  /-- `Fx33` store-bcd (R210). -/
  | storeBcd (x : Reg)
  /-- `Fx55` store-registers (R212). -/
  | storeRegisters (x : Reg)
  /-- `Fx65` load-registers (R214). -/
  | loadRegisters (x : Reg)
  deriving DecidableEq, Repr

end Sys2Proof
end

