-- ==== Sys2Proof/Config.lean ====
section
/-! DEFINITION. The parameters of 00_scope.md R7 that are not fixed by the source, as one record of plain data, and the
model's two open values. The record is a field of State that only a ROM load replaces (R7, R43, R300; log 1), so a
statement about every state holds for every choice of the parameters. The defaults stand in Machine/Params.lean. -/

namespace Sys2Proof

/-- `FONT_BASE`: 0x000 or 0x050 (R7). -/
inductive FontBase where
  | at000
  | at050
  deriving DecidableEq, Repr

/-- `LOAD_STORE_INCREMENT`: `none` or `x_plus_1` (R7, R216). -/
inductive LoadStoreIncrement where
  | none
  | xPlusOne
  deriving DecidableEq, Repr

/-- `SPRITE_EDGE`: `clip` or `wrap` (R7, R115). -/
inductive SpriteEdge where
  | clip
  | wrap
  deriving DecidableEq, Repr

/-- `SHIFT_SOURCE`: `vx` or `vy` (R7, R168). -/
inductive ShiftSource where
  | vx
  | vy
  deriving DecidableEq, Repr

/-- The quirk parameters of R7: fixed from one ROM load to the next, read by no program. -/
structure Config where
  /-- `FONT_BASE` (R58, R202). -/
  fontBase : FontBase
  /-- `FONT_TABLE`: 16 glyphs of 5 bytes (R58, R206). -/
  fontTable : Vector Byte 80
  /-- `LOAD_STORE_INCREMENT` (R216). -/
  loadStoreIncrement : LoadStoreIncrement
  /-- `INDEX_OVERFLOW_FLAG` (R201). -/
  indexOverflowFlag : Bool
  /-- `SPRITE_EDGE` (R115). -/
  spriteEdge : SpriteEdge
  /-- `SHIFT_SOURCE` (R168, R170). -/
  shiftSource : ShiftSource
  /-- `DECODE_STRICT` (R86). -/
  decodeStrict : Bool
  /-- `PROTECT_RESERVED` (R57). -/
  protectReserved : Bool
  deriving DecidableEq, Repr

/-- FREE VALUE (log 4). The byte the outside supplies to the k-th execution of `random` counted by `State.draws`:
"a fresh 8-bit draw from outside the core" with no law the model may assume (42_alu.md R181, R34). It has no body. -/
opaque Config.randomByte : Nat → Byte

/-- `INSTR_RATE`, instructions per second, positive: OPEN, and no rule depends on it (R7, R312; log 12). -/
opaque Config.instrRate : ℕ+

end Sys2Proof
end

