-- ==== Sys2Proof/Machine/Params.lean ====
section
/-! DEFINITION. The fixed parameters of 00_scope.md R7, the defaults of the others, and the standard font table of
43_index_memory.md R206. -/

namespace Sys2Proof.Machine

/-- `MEM_SIZE`: 4096 bytes, addresses 0x000 to 0xFFF (R7, R50). -/
def memSize : Nat := 0x1000

/-- `RESERVED_END`: the last address of the reserved region (R7, R56). -/
def reservedEnd : Nat := 0x1FF

/-- `ROM_BASE` (R7, R59). -/
def romBase : Nat := 0x200

/-- `ROM_MAX`: 4096 - 0x200 = 3584 bytes (R7, R59). -/
def romMax : Nat := memSize - romBase

/-- `FONT_SIZE`: 80 bytes (R7, R58). -/
def fontSize : Nat := 80

/-- `STACK_DEPTH`: 16 entries (R7, R27). -/
def stackDepth : Nat := 16

/-- `TIMER_RATE` in hertz (R7, R276); it fixes what a second of ticks is (R313) and nothing else. -/
def timerRate : Nat := 60

/-- The address that a value of `FONT_BASE` stands for (R7). -/
def fontBaseAddr : FontBase → Nat
  | .at000 => 0x000
  | .at050 => 0x050

/-- The standard CHIP-8 hexadecimal font, digit d at offsets 5d to 5d + 4 (R206; PRESUMED, log 11). -/
def standardFont : Vector Byte 80 := ⟨#[
  0xF0, 0x90, 0x90, 0x90, 0xF0,   0x20, 0x60, 0x20, 0x20, 0x70,
  0xF0, 0x10, 0xF0, 0x80, 0xF0,   0xF0, 0x10, 0xF0, 0x10, 0xF0,
  0x90, 0x90, 0xF0, 0x10, 0x10,   0xF0, 0x80, 0xF0, 0x10, 0xF0,
  0xF0, 0x80, 0xF0, 0x90, 0xF0,   0xF0, 0x10, 0x20, 0x40, 0x40,
  0xF0, 0x90, 0xF0, 0x90, 0xF0,   0xF0, 0x90, 0xF0, 0x10, 0xF0,
  0xF0, 0x90, 0xF0, 0x90, 0x90,   0xE0, 0x90, 0xE0, 0x90, 0xE0,
  0xF0, 0x80, 0x80, 0x80, 0xF0,   0xE0, 0x90, 0x90, 0x90, 0xE0,
  0xF0, 0x80, 0xF0, 0x80, 0xF0,   0xF0, 0x80, 0xF0, 0x80, 0x80], rfl⟩

/-- The defaults of 00_scope.md R7. -/
def defaultConfig : Config where
  fontBase := .at050
  fontTable := standardFont
  loadStoreIncrement := .none
  indexOverflowFlag := false
  spriteEdge := .clip
  shiftSource := .vx
  decodeStrict := false
  protectReserved := true

end Sys2Proof.Machine
end

