-- ==== Sys2Proof/WellFormed.lean ====
section
/-! DEFINITION. Which inputs of the machine are well formed. An instruction's operands carry the bounds of their fields in
their types, so no instruction is ill formed; a ROM image is well formed when the load accepts it. -/

namespace Sys2Proof

/-- Every field of R81 is bounded by its operand's type (a register number is a `Fin 16`, `n`, `kk` and `nnn` are bit
vectors of 4, 8 and 12 bits), so every instruction is well formed. -/
def Instr.wf (_ : Instr) : Bool := true

/-- A ROM image the load accepts: at most 3584 bytes, length 0 included (70_reset_and_hazards.md R302). -/
def romWellFormed (rom : List Byte) : Bool := decide (rom.length ≤ Machine.romMax)

/-- R81: the types carry the bounds. -/
theorem Instr.wf_eq_true (i : Instr) : i.wf = true := rfl

end Sys2Proof
end

