-- ==== Sys2Proof/Decode.lean ====
section
/-! DEFINITION. The decoder and the encoder, both from the opcode map of 30_encoding.md R85. A row holds the match and mask
of both decoder modes (R86) and builds its instruction from the fields of R81. Decoding a word is total: a word that
matches no row is the tag `unknown` (R84, R87). The numeric values are the spec's general knowledge (log 10). -/

namespace Sys2Proof

/-! ### The fields of an instruction word (R81) -/

/-- `x = w[11:8]`, a register number. -/
def fieldX (w : Word) : Reg := (w.extractLsb' 8 4).toFin

/-- `y = w[7:4]`, a register number. -/
def fieldY (w : Word) : Reg := (w.extractLsb' 4 4).toFin

/-- `n = w[3:0]`. -/
def fieldN (w : Word) : Nibble := w.extractLsb' 0 4

/-- `kk = w[7:0]`. -/
def fieldKk (w : Word) : Byte := w.extractLsb' 0 8

/-- `nnn = w[11:0]`. -/
def fieldNnn (w : Word) : Addr12 := w.extractLsb' 0 12

/-! ### The opcode map (R85) -/

/-- One row of R85: the bits the word must have in each decoder mode, and the instruction its fields make. -/
structure Row where
  /-- `match` for `DECODE_STRICT` false. -/
  pattern : Word
  /-- `mask` for `DECODE_STRICT` false. -/
  mask : Word
  /-- `match` for `DECODE_STRICT` true. -/
  strictPattern : Word
  /-- `mask` for `DECODE_STRICT` true. -/
  strictMask : Word
  /-- The tag with its operand fields. -/
  build : Word → Instr

/-- "A word decodes to a row when `(w & mask) == match`" (R85), with the mode's match and mask (R86). -/
def rowAdmits (strict : Bool) (w : Word) (r : Row) : Bool :=
  if strict then w &&& r.strictMask == r.strictPattern else w &&& r.mask == r.pattern

/-- Rows 1 to 10 of R85: display, control flow and immediates. -/
def rowsImmediate : List Row := [
  ⟨0x0000, 0xF00F, 0x00E0, 0xFFFF, fun _ => .clearScreen⟩,
  ⟨0x000E, 0xF00F, 0x00EE, 0xFFFF, fun _ => .ret⟩,
  ⟨0x1000, 0xF000, 0x1000, 0xF000, fun w => .jump (fieldNnn w)⟩,
  ⟨0x2000, 0xF000, 0x2000, 0xF000, fun w => .call (fieldNnn w)⟩,
  ⟨0x3000, 0xF000, 0x3000, 0xF000, fun w => .skipIfEqualImmediate (fieldX w) (fieldKk w)⟩,
  ⟨0x4000, 0xF000, 0x4000, 0xF000, fun w => .skipIfNotEqualImmediate (fieldX w) (fieldKk w)⟩,
  ⟨0x5000, 0xF000, 0x5000, 0xF00F, fun w => .skipIfEqualRegisters (fieldX w) (fieldY w)⟩,
  ⟨0x9000, 0xF000, 0x9000, 0xF00F, fun w => .skipIfNotEqualRegisters (fieldX w) (fieldY w)⟩,
  ⟨0x6000, 0xF000, 0x6000, 0xF000, fun w => .loadImmediate (fieldX w) (fieldKk w)⟩,
  ⟨0x7000, 0xF000, 0x7000, 0xF000, fun w => .addImmediate (fieldX w) (fieldKk w)⟩]

/-- Rows 11 to 19 of R85: the register ALU group. -/
def rowsAlu : List Row := [
  ⟨0x8000, 0xF00F, 0x8000, 0xF00F, fun w => .aluLoad (fieldX w) (fieldY w)⟩,
  ⟨0x8001, 0xF00F, 0x8001, 0xF00F, fun w => .aluOr (fieldX w) (fieldY w)⟩,
  ⟨0x8002, 0xF00F, 0x8002, 0xF00F, fun w => .aluAnd (fieldX w) (fieldY w)⟩,
  ⟨0x8003, 0xF00F, 0x8003, 0xF00F, fun w => .aluXor (fieldX w) (fieldY w)⟩,
  ⟨0x8004, 0xF00F, 0x8004, 0xF00F, fun w => .aluAdd (fieldX w) (fieldY w)⟩,
  ⟨0x8005, 0xF00F, 0x8005, 0xF00F, fun w => .aluSub (fieldX w) (fieldY w)⟩,
  ⟨0x8006, 0xF00F, 0x8006, 0xF00F, fun w => .aluShr (fieldX w) (fieldY w)⟩,
  ⟨0x8007, 0xF00F, 0x8007, 0xF00F, fun w => .aluSubn (fieldX w) (fieldY w)⟩,
  ⟨0x800E, 0xF00F, 0x800E, 0xF00F, fun w => .aluShl (fieldX w) (fieldY w)⟩]

/-- Rows 20 to 25 of R85: index, computed jump, random, draw and the key skips. -/
def rowsMixed : List Row := [
  ⟨0xA000, 0xF000, 0xA000, 0xF000, fun w => .loadIndex (fieldNnn w)⟩,
  ⟨0xB000, 0xF000, 0xB000, 0xF000, fun w => .jumpOffset (fieldNnn w)⟩,
  ⟨0xC000, 0xF000, 0xC000, 0xF000, fun w => .random (fieldX w) (fieldKk w)⟩,
  ⟨0xD000, 0xF000, 0xD000, 0xF000, fun w => .draw (fieldX w) (fieldY w) (fieldN w)⟩,
  ⟨0xE00E, 0xF00F, 0xE09E, 0xF0FF, fun w => .skipIfKeyPressed (fieldX w)⟩,
  ⟨0xE001, 0xF00F, 0xE0A1, 0xF0FF, fun w => .skipIfKeyNotPressed (fieldX w)⟩]

/-- Rows 26 to 34 of R85: group F. -/
def rowsGroupF : List Row := [
  ⟨0xF007, 0xF0FF, 0xF007, 0xF0FF, fun w => .loadDelayTimer (fieldX w)⟩,
  ⟨0xF00A, 0xF0FF, 0xF00A, 0xF0FF, fun w => .waitForKey (fieldX w)⟩,
  ⟨0xF015, 0xF0FF, 0xF015, 0xF0FF, fun w => .setDelayTimer (fieldX w)⟩,
  ⟨0xF018, 0xF0FF, 0xF018, 0xF0FF, fun w => .setSoundTimer (fieldX w)⟩,
  ⟨0xF01E, 0xF0FF, 0xF01E, 0xF0FF, fun w => .addToIndex (fieldX w)⟩,
  ⟨0xF029, 0xF0FF, 0xF029, 0xF0FF, fun w => .loadFontAddress (fieldX w)⟩,
  ⟨0xF033, 0xF0FF, 0xF033, 0xF0FF, fun w => .storeBcd (fieldX w)⟩,
  ⟨0xF055, 0xF0FF, 0xF055, 0xF0FF, fun w => .storeRegisters (fieldX w)⟩,
  ⟨0xF065, 0xF0FF, 0xF065, 0xF0FF, fun w => .loadRegisters (fieldX w)⟩]

/-- The 34 rows of R85, in the table's order. -/
def opcodeRows : List Row := rowsImmediate ++ rowsAlu ++ rowsMixed ++ rowsGroupF

/-! ### Decoding -/

/-- What a word decodes to: one of the 34 tags with its operands, or "an explicit "unknown" tag" (R84). -/
inductive Decoded where
  | known (i : Instr)
  | unknown (w : Word)
  deriving DecidableEq, Repr

/-- The decoder (R84): total on words, never faulting. `strict` is `DECODE_STRICT` (R86). -/
def decode (strict : Bool) (w : Word) : Decoded :=
  match opcodeRows.find? (rowAdmits strict w) with
  | some r => .known (r.build w)
  | none => .unknown w

/-- A word as the hardware joins it from two bytes, high byte first: `w = MEM[pc] * 256 + MEM[pc+1]` (20_memory.md R61). -/
def joinBytes (hi lo : Byte) : Word := BitVec.ofNat 16 (hi.toNat * 256 + lo.toNat)

/-- The two bytes of a word in the order memory holds them, high byte first (R61). -/
def wordBytes (w : Word) : List Byte := [w.extractLsb' 8 8, w.extractLsb' 0 8]

/-- Why a byte sequence is no instruction. -/
inductive Reject where
  /-- Fewer than the two bytes every instruction has (R80, R89). -/
  | truncated
  /-- The word matches no row of R85: `unknown` (R87). -/
  | unknown (w : Word)
  deriving DecidableEq, Repr

/-- Decoding bytes, total and rejecting by name: an instruction and the bytes after it, or why there is none. -/
def decodeBytes (strict : Bool) : List Byte → Except Reject (Instr × List Byte)
  | hi :: lo :: rest =>
    match decode strict (joinBytes hi lo) with
    | .known i => .ok (i, rest)
    | .unknown w => .error (.unknown w)
  | _ => .error .truncated

/-- The instruction the decoder reads, in the default configuration (`DECODE_STRICT` false, R7), from an instruction whose
bits are `w`, numbered as spec/opcode_table.json numbers them; bits from `nbits` up are 0. -/
def decodeTableWord (nbits w : Nat) : Option Instr :=
  match decodeBytes Machine.defaultConfig.decodeStrict (wordBytes (BitVec.ofNat 16 (w % 2 ^ nbits))) with
  | .ok (i, _) => some i
  | .error _ => none

/-! ### Encoding -/

/-- A register number as its 4-bit field. -/
def regBits (x : Reg) : Nibble := BitVec.ofNat 4 x.val

/-- A word `gxkk`. -/
def wordXkk (group : Nibble) (x : Reg) (kk : Byte) : Word := group ++ regBits x ++ kk

/-- A word `gxyn`. -/
def wordXyn (group : Nibble) (x y : Reg) (n : Nibble) : Word := wordXkk group x (regBits y ++ n)

/-- A word `gnnn`. -/
def wordNnn (group : Nibble) (nnn : Addr12) : Word := group ++ nnn

/-- The encoder, from the patterns of R85: the bits a pattern fixes are as the pattern writes them, so the word is one of
the instruction's words in both decoder modes. -/
def encode : Instr → Word
  | .clearScreen => 0x00E0
  | .ret => 0x00EE
  | .jump nnn => wordNnn 0x1 nnn
  | .call nnn => wordNnn 0x2 nnn
  | .skipIfEqualImmediate x kk => wordXkk 0x3 x kk
  | .skipIfNotEqualImmediate x kk => wordXkk 0x4 x kk
  | .skipIfEqualRegisters x y => wordXyn 0x5 x y 0x0
  | .skipIfNotEqualRegisters x y => wordXyn 0x9 x y 0x0
  | .loadImmediate x kk => wordXkk 0x6 x kk
  | .addImmediate x kk => wordXkk 0x7 x kk
  | .aluLoad x y => wordXyn 0x8 x y 0x0
  | .aluOr x y => wordXyn 0x8 x y 0x1
  | .aluAnd x y => wordXyn 0x8 x y 0x2
  | .aluXor x y => wordXyn 0x8 x y 0x3
  | .aluAdd x y => wordXyn 0x8 x y 0x4
  | .aluSub x y => wordXyn 0x8 x y 0x5
  | .aluShr x y => wordXyn 0x8 x y 0x6
  | .aluSubn x y => wordXyn 0x8 x y 0x7
  | .aluShl x y => wordXyn 0x8 x y 0xE
  | .loadIndex nnn => wordNnn 0xA nnn
  | .jumpOffset nnn => wordNnn 0xB nnn
  | .random x kk => wordXkk 0xC x kk
  | .draw x y n => wordXyn 0xD x y n
  | .skipIfKeyPressed x => wordXkk 0xE x 0x9E
  | .skipIfKeyNotPressed x => wordXkk 0xE x 0xA1
  | .loadDelayTimer x => wordXkk 0xF x 0x07
  | .waitForKey x => wordXkk 0xF x 0x0A
  | .setDelayTimer x => wordXkk 0xF x 0x15
  | .setSoundTimer x => wordXkk 0xF x 0x18
  | .addToIndex x => wordXkk 0xF x 0x1E
  | .loadFontAddress x => wordXkk 0xF x 0x29
  | .storeBcd x => wordXkk 0xF x 0x33
  | .storeRegisters x => wordXkk 0xF x 0x55
  | .loadRegisters x => wordXkk 0xF x 0x65

end Sys2Proof
end

