-- ==== Sys2Proof/Machine/Memory.lean ====
section
/-! DEFINITION. Memory as plain data: a list of (address, byte) pairs in one canonical form. The addresses rise strictly,
each is one of the 4096 (20_memory.md R50), and no entry equals what an unlisted address reads as. An unlisted address
reads as its reset content: the font table at `FONT_BASE`, 0 elsewhere (70_reset_and_hazards.md R300; log 7). -/

namespace Sys2Proof.Machine

/-- Memory: the cells whose byte differs from the reset content. -/
abbrev Memory := List Host.Cell

/-- What an address that is not listed reads as: its content after the load of an empty ROM (R45, R58, R300). -/
def unlisted (cfg : Config) (a : Nat) : Byte :=
  if fontBaseAddr cfg.fontBase ≤ a ∧ a < fontBaseAddr cfg.fontBase + fontSize then
    (cfg.fontTable[a - fontBaseAddr cfg.fontBase]?).getD 0
  else 0

/-- The listed byte at an address, if there is one. -/
def Memory.lookup : Memory → Nat → Option Byte
  | [], _ => none
  | (k, b) :: m, a => if k = a then some b else Memory.lookup m a

/-- The byte at an address: the listed one, else the reset content. -/
def Memory.read (cfg : Config) (m : Memory) (a : Nat) : Byte := (Memory.lookup m a).getD (unlisted cfg a)

/-- The list with the cell at `a` holding `b`, in order. -/
def Memory.put : Memory → Nat → Byte → Memory
  | [], a, b => [(a, b)]
  | (k, c) :: m, a, b =>
    if a < k then (a, b) :: (k, c) :: m else if a = k then (a, b) :: m else (k, c) :: Memory.put m a b

/-- The list without its cells at `a`. -/
def Memory.erase : Memory → Nat → Memory
  | [], _ => []
  | (k, c) :: m, a => if k = a then Memory.erase m a else (k, c) :: Memory.erase m a

/-- Storing a byte, keeping the canonical form: writing the reset content removes the entry. -/
def Memory.write (cfg : Config) (m : Memory) (a : Nat) (b : Byte) : Memory :=
  if b = unlisted cfg a then Memory.erase m a else Memory.put m a b

/-- The memory that holds the bytes from address `a` on and reset contents elsewhere: the ROM copy of R301, "verbatim". -/
def Memory.ofBytes (cfg : Config) : Nat → List Byte → Memory
  | _, [] => []
  | a, b :: bs => if b = unlisted cfg a then Memory.ofBytes cfg (a + 1) bs else (a, b) :: Memory.ofBytes cfg (a + 1) bs

/-- The canonical form. -/
def Memory.wf (cfg : Config) (m : Memory) : Bool :=
  decide (m.Pairwise fun p q => p.1 < q.1) && m.all fun p => decide (p.1 < memSize) && p.2 != unlisted cfg p.1

end Sys2Proof.Machine
end

