-- ==== Sys2Proof/Machine/State.lean ====
section
/-! DEFINITION. The machine's state as plain data, all of it (10_state.md, 20_memory.md, 44_keys_timers.md R230), the model's
own fields beside it, the reasons a step can stop, and the state after reset (10_state.md R45, R46). -/

namespace Sys2Proof.Machine

/-- `STATUS` (R40): no ROM loaded since power-on, executing, or stopped by a fault. -/
inductive Status where
  | idle
  | running
  | faulted
  deriving DecidableEq, Repr

/-- The closed fault taxonomy of 60_exceptions.md R260. -/
inductive FaultKind where
  | unknownOpcode
  | stackOverflow
  | stackUnderflow
  | outOfBoundsAccess
  | romTooLarge
  | invalidKeyIndex
  deriving DecidableEq, Repr

/-- The per-instruction output (R33, R131): `display-dirty` exactly when the instruction set `DIRTY`. -/
inductive Effect where
  | none
  | displayDirty
  deriving DecidableEq, Repr

/-- The framebuffer: 32 rows of 64 pixels, `FB[y][x]` (R31, R32). -/
abbrev Framebuffer := Vector (Vector Bool 64) 32

/-- What the core returns to the host for one interaction (60_exceptions.md R280). -/
inductive Reply where
  /-- A tick, a key write, or an issue pulse that was ignored. -/
  | nothing
  /-- An issue pulse: the instruction's `Effect` and the fault result, if any (R131, R265). -/
  | issued (effect : Effect) (fault : Option FaultKind)
  /-- A ROM load that was accepted. -/
  | loaded
  /-- A ROM load that was rejected, with the fault (R302). -/
  | rejected (fault : FaultKind)
  /-- A display read: all pixels and the `DIRTY` from before the read (R284). -/
  | display (pixels : Framebuffer) (dirty : Bool)
  deriving DecidableEq, Repr

/-- The atomic steps of the agents (20_memory.md R65, R66; 60_exceptions.md R280). -/
inductive Event where
  /-- One issue pulse: one instruction step (41_control_flow.md R131). -/
  | issue
  /-- One pulse of the timer clock (R275). -/
  | tick
  /-- The host replaces all 16 key bits (R282). -/
  | keyWrite (keys : Vector Bool 16)
  /-- The host reads the framebuffer and the dirty flag (R284). -/
  | displayRead
  /-- The host loads a ROM, starting a run under the given quirk parameters (70_reset_and_hazards.md R300, R302; R7). -/
  | romLoad (cfg : Config) (rom : List Byte)
  deriving DecidableEq, Repr

/-- Everything the core holds, and the model's own four fields. -/
structure State where
  /-- `V[0]` .. `V[15]` (R20, R21). -/
  v : Vector Byte 16
  /-- `I` (R24). -/
  index : Word
  /-- `pc`: between instructions, the address of the next instruction (R25). -/
  pc : Word
  /-- `SP`: the number of stack entries in use, 0 to 16 (R28). -/
  sp : BitVec 8
  /-- `STACK[0]` .. `STACK[15]` (R27). -/
  stack : Vector Word 16
  /-- `DT` (R29). -/
  dt : Byte
  /-- `ST` (R29). -/
  st : Byte
  /-- `KEYSTATE[0]` .. `KEYSTATE[15]`, true when pressed; only the host writes it (R30). -/
  keyState : Vector Bool 16
  /-- `KEYS[0]` .. `KEYS[15]`: the snapshot the current instruction reads (44_keys_timers.md R230; log 6). -/
  keys : Vector Bool 16
  /-- `FB` (R31). -/
  fb : Framebuffer
  /-- `DIRTY` (R33). -/
  dirty : Bool
  /-- The 4096 bytes of memory (20_memory.md R50; log 7). -/
  mem : Memory
  /-- `STATUS` (R40). -/
  status : Status
  /-- `FAULT_CODE` (R41). -/
  faultCode : BitVec 3
  /-- `FAULT_PC` (R42). -/
  faultPc : Word
  /-- `FAULT_WORD` (R42). -/
  faultWord : Word
  /-- The model's own: the quirk parameters of the current run (R7, R43; log 1). -/
  cfg : Config
  /-- The model's own: the agents' steps still to come, in their order; past its end, issue pulses (R66; log 3). -/
  agenda : List Event
  /-- The model's own: what the last interaction returned to the host (R280; log 5). -/
  reply : Reply
  /-- The model's own: how many random bytes have been drawn, the counter of the free value (R181; log 4). -/
  draws : Nat
  deriving DecidableEq, Repr

/-- The reasons a step stops the MODEL. The hardware's own faults are no stop: they are next states (R265; log 8). -/
inductive Fault where
  /-- Raised by `call` and `return` when `SP` is above 16, which R28 says never happens and no step from a state with
  `SP` at most 16 brings about. The spec gives no effect there. Safe: the model stops (log 9). -/
  | stackPointerOutOfRange
  deriving DecidableEq, Repr

/-- The reasons the model gives no meaning. -/
inductive Refusal where
  /-- Raised by `exec` for an instruction that has no meaning yet, by its mnemonic. Safe: the model stops. No arm uses it. -/
  | notModelled (mnemonic : String)
  deriving DecidableEq, Repr

/-- The machine right after reset. "Reset is a successful ROM load" (R300), so this is the table of R45 after the load of a
ROM of length 0 in the default configuration (log 2). -/
def State.reset : State where
  v := Vector.replicate 16 0
  index := 0
  pc := 0x200
  sp := 0
  stack := Vector.replicate 16 0
  dt := 0
  st := 0
  keyState := Vector.replicate 16 false
  keys := Vector.replicate 16 false
  fb := Vector.replicate 32 (Vector.replicate 64 false)
  dirty := false
  mem := []
  status := .running
  faultCode := 0
  faultPc := 0
  faultWord := 0
  cfg := defaultConfig
  agenda := []
  reply := .loaded
  draws := 0

end Sys2Proof.Machine
end

