-- ==== Sys2Proof/Machine/Ops.lean ====
section
/-! DEFINITION. The named operations over registers, memory, the stack, pc and the fault registers that every meaning is
written with. A meaning starts from the state at the START of the instruction's step, so `s.pc` is the fetch address:
`advance` is the fetch advance, and `raise` restores the saved state by not having left it (41_control_flow.md R130,
R131; 60_exceptions.md R265; log 8). -/

namespace Sys2Proof.Machine

/-- What a meaning answers. -/
abbrev Result := Host.Outcome State Fault Refusal

/-! ### Registers -/

/-- `V[x]`, read (00_scope.md R9). -/
def State.reg (s : State) (x : Reg) : Byte := s.v[x]

/-- `V[x] <- b`. -/
def State.setReg (s : State) (x : Reg) (b : Byte) : State := { s with v := s.v.set x b }

/-- A result and a flag: the result is written first and the flag to `V[15]` last, so with `x = 15` the flag stays
(10_state.md R22). -/
def State.setRegFlag (s : State) (x : Reg) (b flag : Byte) : State := (s.setReg x b).setReg 15 flag

/-- `V[k] <- byte` for the bytes in order from register `k` on (43_index_memory.md R214). -/
def loadRegsFrom : Nat → List Byte → Vector Byte 16 → Vector Byte 16
  | _, [], v => v
  | k, b :: bs, v => loadRegsFrom (k + 1) bs (v.setIfInBounds k b)

/-- `V[0]` .. as the given bytes, the registers above unchanged (R214). -/
def State.setRegs (s : State) (bytes : List Byte) : State := { s with v := loadRegsFrom 0 bytes s.v }

/-- `I <- w`. -/
def State.setIndex (s : State) (w : Word) : State := { s with index := w }

/-- `DT <- b`. -/
def State.setDt (s : State) (b : Byte) : State := { s with dt := b }

/-- `ST <- b`. -/
def State.setSt (s : State) (b : Byte) : State := { s with st := b }

/-! ### The program counter -/

/-- The fetch advance: `pc <- pc + 2` (R130). -/
def State.advance (s : State) : State := { s with pc := s.pc + 2 }

/-- `pc <- w`, neither masked nor checked (R141). -/
def State.setPc (s : State) (w : Word) : State := { s with pc := w }

/-- A skip after the fetch advance: "an additional 2" when taken (R132). -/
def State.skipIf (s : State) (taken : Bool) : State := if taken then { s with pc := s.pc + 2 } else s

/-! ### Memory -/

/-- The byte at an address; `MEM[a]`. -/
def State.readByte (s : State) (a : Nat) : Byte := s.mem.read s.cfg a

/-- `MEM[a] <- b`, with no check. -/
def State.writeByte (s : State) (a : Nat) (b : Byte) : State := { s with mem := s.mem.write s.cfg a b }

/-- Rule R54: an access is legal at 0x000 to 0xFFF. -/
def addressOk (a : Nat) : Bool := decide (a < memSize)

/-- Rules R54 and R57: a program write is legal in bounds and, while `PROTECT_RESERVED` holds, above 0x1FF. -/
def writeOk (cfg : Config) (a : Nat) : Bool := addressOk a && !(cfg.protectReserved && decide (a ≤ reservedEnd))

/-- A check of each of `n` addresses from `a` on. -/
def checkAll (ok : Nat → Bool) (a : Nat) : Nat → Bool
  | 0 => true
  | n + 1 => ok a && checkAll ok (a + 1) n

/-- The bytes at `n` addresses from `a` on, in increasing order. -/
def State.bytesFrom (s : State) (a : Nat) : Nat → List Byte
  | 0 => []
  | n + 1 => s.readByte a :: s.bytesFrom (a + 1) n

/-- Stores of the bytes from address `a` on, in increasing order. -/
def State.storeFrom (s : State) (a : Nat) : List Byte → State
  | [] => s
  | b :: bs => (s.writeByte a b).storeFrom (a + 1) bs

/-- A read of `n` bytes, all or nothing: every address is checked before any transfer (R60). `none` is
`OutOfBoundsAccess`. A read of 0 bytes checks nothing (40_display.md R117). -/
def State.readBytes (s : State) (a n : Nat) : Option (List Byte) :=
  if checkAll addressOk a n then some (s.bytesFrom a n) else none

/-- A program write of bytes, all or nothing (R57, R60). `none` is `OutOfBoundsAccess`. -/
def State.writeBytes (s : State) (a : Nat) (bytes : List Byte) : Option State :=
  if checkAll (writeOk s.cfg) a bytes.length then some (s.storeFrom a bytes) else none

/-- The instruction word at `pc`, high byte first, where both its bytes are in memory (R61, R130). -/
def State.fetchWord (s : State) : Option Word :=
  if addressOk (s.pc.toNat + 1) then some (joinBytes (s.readByte s.pc.toNat) (s.readByte (s.pc.toNat + 1))) else none

/-! ### The call stack -/

/-- `STACK[k]`; there are 16 entries (R27). -/
def State.stackAt (s : State) (k : Nat) : Word := (s.stack[k]?).getD 0

/-- "A push writes `STACK[SP]` and then increments `SP`" (R28). -/
def State.push (s : State) (w : Word) : State :=
  { s with stack := s.stack.setIfInBounds s.sp.toNat w, sp := s.sp + 1 }

/-- "A pop decrements `SP` and then reads `STACK[SP]`"; the entry stays (R28). What it reads goes to `pc` (R133). -/
def State.popPc (s : State) : State := { s with sp := s.sp - 1, pc := s.stackAt (s.sp - 1).toNat }

/-! ### Display -/

/-- `DIRTY <- 1`, with the step's `Effect` (R33, R116). -/
def State.markDirty (s : State) : State := { s with dirty := true, reply := .issued .displayDirty none }

/-- The framebuffer, replaced. -/
def State.setFb (s : State) (fb : Framebuffer) : State := { s with fb := fb }

/-! ### The free value -/

/-- One random byte drawn: the counter moves on (R181; log 4). -/
def State.drawn (s : State) : State := { s with draws := s.draws + 1 }

/-! ### Faults -/

/-- The fault codes of 60_exceptions.md R261. -/
def FaultKind.code : FaultKind → BitVec 3
  | .unknownOpcode => 1
  | .stackOverflow => 2
  | .stackUnderflow => 3
  | .outOfBoundsAccess => 4
  | .romTooLarge => 5
  | .invalidKeyIndex => 6

/-- TAKING A FAULT (R265), from the state saved at the start of the step: every register, the stack, memory and the
framebuffer stay as they were, `pc` holds the faulting instruction's address, and the fault registers are latched.
`FAULT_WORD` is the word at `pc`, and 0x0000 where the fetch itself fails (R42). The fault is the step's result and its
`Effect` is none. -/
def State.raise (s : State) (f : FaultKind) : State :=
  { s with
    status := .faulted
    faultCode := f.code
    faultPc := s.pc
    faultWord := s.fetchWord.getD 0
    reply := .issued .none (some f) }

/-- LEAVING `FAULTED`. "No instruction returns from a fault" (R267): the only exit is a successful ROM load (R266), which
resets the whole state, copies the ROM to 0x200 and enters `RUNNING` under the quirk parameters given (R300, R301).
`KEYSTATE` is an input and stays as the host wrote it. The steps still to come and the count of random draws are no state
of the core and go on. -/
def State.reload (s : State) (cfg : Config) (rom : List Byte) : State :=
  { State.reset with
    cfg := cfg
    mem := Memory.ofBytes cfg romBase rom
    keyState := s.keyState
    keys := s.keys
    agenda := s.agenda
    draws := s.draws }

/-- Power-on (R46, R303): the reset values with no ROM, and `STATUS = IDLE`; nothing has been returned to the host yet. -/
def State.powerOn : State := { State.reset with status := .idle, reply := .nothing }

end Sys2Proof.Machine
end

