-- ==== Sys2Proof/Machine/Operands.lean ====
section
/-! DEFINITION. Every operand form of the instruction set: register and immediate operands are read with `State.reg` and
from the instruction; here are the zero-extended address, the computed jump target, the shift source, the effective
address through I, the index sum and its advance, the font address, the decimal digits, and the key a register names. -/

namespace Sys2Proof.Machine

/-- `zext_16(nnn)` (30_encoding.md R82). -/
def addrWord (nnn : Addr12) : Word := BitVec.ofNat 16 nnn.toNat

/-- `zext_16(V[0]) + zext_16(nnn)`, exact, not masked (41_control_flow.md R140). -/
def State.offsetTarget (s : State) (nnn : Addr12) : Word := BitVec.ofNat 16 ((s.reg 0).toNat + nnn.toNat)

/-- The value a shift shifts: `V[x]` or `V[y]`, by `SHIFT_SOURCE` (42_alu.md R168). -/
def State.shiftOperand (s : State) (x y : Reg) : Byte :=
  match s.cfg.shiftSource with
  | .vx => s.reg x
  | .vy => s.reg y

/-- The base of an access through I: the exact 16-bit value, neither cut to 12 bits nor wrapped (20_memory.md R71). -/
def State.ea (s : State) : Nat := s.index.toNat

/-- `I + V[x]`, exact (43_index_memory.md R201). -/
def State.indexSum (s : State) (x : Reg) : Nat := s.index.toNat + (s.reg x).toNat

/-- The glyph address of digit d: `FONT_BASE + 5*d` (R202, 20_memory.md R58). -/
def fontAddress (cfg : Config) (d : Byte) : Word := BitVec.ofNat 16 (fontBaseAddr cfg.fontBase + 5 * d.toNat)

/-- The three decimal digits of a byte: hundreds, tens, ones (R210). -/
def bcdDigits (b : Byte) : List Byte :=
  [BitVec.ofNat 8 (b.toNat / 100), BitVec.ofNat 8 (b.toNat / 10 % 10), BitVec.ofNat 8 (b.toNat % 10)]

/-- `V[0]` .. `V[x]`, the bytes a register block holds (R212). -/
def State.regBlock (s : State) (x : Reg) : List Byte := s.v.toList.take (x.val + 1)

/-- The index advance after a register block transfer, by `LOAD_STORE_INCREMENT` (R216). -/
def State.advanceIndex (s : State) (x : Reg) : State :=
  match s.cfg.loadStoreIncrement with
  | .none => s
  | .xPlusOne => s.setIndex (BitVec.ofNat 16 (s.index.toNat + x.val + 1))

/-- `KEYS[V[x]]` where `V[x]` is a key index, 0 to 15 (44_keys_timers.md R231). `none` is `InvalidKeyIndex`. -/
def State.keyOf (s : State) (x : Reg) : Option Bool := s.keys[(s.reg x).toNat]?

/-- `min { k | KEYS[k] }`, if a key is pressed (R236). -/
def lowestKey (keys : Vector Bool 16) : Option Reg := (List.finRange 16).find? fun k => keys[k]

/-- A key index as a register's byte (R236). -/
def keyByte (k : Reg) : Byte := BitVec.ofNat 8 k.val

end Sys2Proof.Machine
end

