-- ==== Sys2Proof/Machine/Flags.lean ====
section
/-! DEFINITION. Every flag computation the spec gives `V[15]` (42_alu.md R171): carry, not borrow, the bit shifted out,
collision and the optional index overflow. Each is the byte 1 or 0. -/

namespace Sys2Proof.Machine

/-- A flag as the byte written to `V[15]`. -/
def flagByte (c : Bool) : Byte := if c then 1 else 0

/-- Carry of an addition: 1 when the exact sum is above 255 (R166). -/
def carryFlag (a b : Byte) : Byte := flagByte (decide (a.toNat + b.toNat > 255))

/-- Not borrow of `a - b`: 1 when `a >= b`, unsigned (R167, R169). -/
def notBorrowFlag (a b : Byte) : Byte := flagByte (decide (a.toNat ≥ b.toNat))

/-- The bit a right shift by one shifts out: bit 0 (R168). -/
def shrFlag (s : Byte) : Byte := flagByte (s.getLsbD 0)

/-- The bit a left shift by one shifts out: bit 7 (R170). -/
def shlFlag (s : Byte) : Byte := flagByte (s.getLsbD 7)

/-- Index overflow: 1 when the exact sum is above 0xFFF (43_index_memory.md R201). -/
def indexOverflowByte (sum : Nat) : Byte := flagByte (decide (sum > 0xFFF))

/-- Collision of a draw (40_display.md R114). -/
def collisionFlag (collided : Bool) : Byte := flagByte collided

end Sys2Proof.Machine
end

