-- ==== Sys2Proof/Machine/Alu.lean ====
section
/-! DEFINITION. Register loads, arithmetic and logic, and `random` (42_alu.md). Sums and differences are computed exactly
and cut to 8 bits; a flag goes to `V[15]` last (10_state.md R22). None of these can fault. -/

namespace Sys2Proof.Machine

/-- `load-immediate` (R160). -/
def execLoadImmediate (x : Reg) (kk : Byte) (s : State) : Result := .next (s.advance.setReg x kk)

/-- `add-immediate` (R161): no flag. -/
def execAddImmediate (x : Reg) (kk : Byte) (s : State) : Result :=
  .next (s.advance.setReg x (BitVec.ofNat 8 ((s.reg x).toNat + kk.toNat)))

/-- `alu-load` (R162). -/
def execAluLoad (x y : Reg) (s : State) : Result := .next (s.advance.setReg x (s.reg y))

/-- `alu-or` (R163): `V[15]` is no flag here. -/
def execAluOr (x y : Reg) (s : State) : Result := .next (s.advance.setReg x (s.reg x ||| s.reg y))

/-- `alu-and` (R164): `V[15]` is no flag here. -/
def execAluAnd (x y : Reg) (s : State) : Result := .next (s.advance.setReg x (s.reg x &&& s.reg y))

/-- `alu-xor` (R165): `V[15]` is no flag here. -/
def execAluXor (x y : Reg) (s : State) : Result := .next (s.advance.setReg x (s.reg x ^^^ s.reg y))

/-- `alu-add` (R166). -/
def execAluAdd (x y : Reg) (s : State) : Result :=
  .next (s.advance.setRegFlag x (BitVec.ofNat 8 ((s.reg x).toNat + (s.reg y).toNat)) (carryFlag (s.reg x) (s.reg y)))

/-- `trunc_8(a - b)`: `a - b + 256` cut to 8 bits (R167). -/
def subByte (a b : Byte) : Byte := BitVec.ofNat 8 (a.toNat + 256 - b.toNat)

/-- `alu-sub` (R167). -/
def execAluSub (x y : Reg) (s : State) : Result :=
  .next (s.advance.setRegFlag x (subByte (s.reg x) (s.reg y)) (notBorrowFlag (s.reg x) (s.reg y)))

/-- `alu-shr` (R168). -/
def execAluShr (x y : Reg) (s : State) : Result :=
  .next (s.advance.setRegFlag x (s.shiftOperand x y >>> 1) (shrFlag (s.shiftOperand x y)))

/-- `alu-subn` (R169). -/
def execAluSubn (x y : Reg) (s : State) : Result :=
  .next (s.advance.setRegFlag x (subByte (s.reg y) (s.reg x)) (notBorrowFlag (s.reg y) (s.reg x)))

/-- `alu-shl` (R170). -/
def execAluShl (x y : Reg) (s : State) : Result :=
  .next (s.advance.setRegFlag x (s.shiftOperand x y <<< 1) (shlFlag (s.shiftOperand x y)))

/-- `random` (R181): the byte is the free value at the counter, which moves on (log 4). -/
def execRandom (x : Reg) (kk : Byte) (s : State) : Result :=
  .next (s.advance.drawn.setReg x (Config.randomByte s.draws &&& kk))

end Sys2Proof.Machine
end

