-- ==== Sys2Proof/Machine/ControlFlow.lean ====
section
/-! DEFINITION. Returns, jumps, calls and the register and immediate skips (41_control_flow.md sections 2 to 4). -/

namespace Sys2Proof.Machine

/-- `return` (R133). -/
def execRet (s : State) : Result :=
  if s.sp.toNat = 0 then .next (s.raise .stackUnderflow)
  else if s.sp.toNat ≤ stackDepth then .next s.advance.popPc
  else .fault .stackPointerOutOfRange

/-- `jump` (R134). -/
def execJump (nnn : Addr12) (s : State) : Result := .next (s.advance.setPc (addrWord nnn))

/-- `call` (R135): the pushed `pc` is the fetch-advanced one. -/
def execCall (nnn : Addr12) (s : State) : Result :=
  if s.sp.toNat = stackDepth then .next (s.raise .stackOverflow)
  else if s.sp.toNat < stackDepth then .next ((s.advance.push s.advance.pc).setPc (addrWord nnn))
  else .fault .stackPointerOutOfRange

/-- `skip-if-equal-immediate` (R136). -/
def execSkipIfEqualImmediate (x : Reg) (kk : Byte) (s : State) : Result :=
  .next (s.advance.skipIf (s.reg x == kk))

/-- `skip-if-not-equal-immediate` (R137). -/
def execSkipIfNotEqualImmediate (x : Reg) (kk : Byte) (s : State) : Result :=
  .next (s.advance.skipIf (s.reg x != kk))

/-- `skip-if-equal-registers` (R138). -/
def execSkipIfEqualRegisters (x y : Reg) (s : State) : Result :=
  .next (s.advance.skipIf (s.reg x == s.reg y))

/-- `skip-if-not-equal-registers` (R139). -/
def execSkipIfNotEqualRegisters (x y : Reg) (s : State) : Result :=
  .next (s.advance.skipIf (s.reg x != s.reg y))

/-- `jump-offset` (R140): always `V[0]`. -/
def execJumpOffset (nnn : Addr12) (s : State) : Result := .next (s.advance.setPc (s.offsetTarget nnn))

end Sys2Proof.Machine
end

