-- ==== Sys2Proof/Machine/Display.lean ====
section
/-! DEFINITION. The display instructions, the sprite-collision detector and the dirty-flag controller (40_display.md). -/

namespace Sys2Proof.Machine

/-- The framebuffer with every pixel 0. -/
def clearFb : Framebuffer := Vector.replicate 32 (Vector.replicate 64 false)

/-- `FB[y][x]`. -/
def pixelAt (fb : Framebuffer) (x : Fin 64) (y : Fin 32) : Bool := fb[y][x]

/-- `FB[y][x] <- FB[y][x] ^ 1`. -/
def togglePixel (fb : Framebuffer) (x : Fin 64) (y : Fin 32) : Framebuffer := fb.set y (fb[y].set x (!fb[y][x]))

/-- Where the sprite pixel at column `px`, row `py` is drawn: wrapped, or dropped when off screen, by `SPRITE_EDGE`
(R113, R115). -/
def spriteTarget (edge : SpriteEdge) (px py : Nat) : Option (Fin 64 × Fin 32) :=
  match edge with
  | .wrap => some (Fin.ofNat 64 px, Fin.ofNat 32 py)
  | .clip => if h : px < 64 ∧ py < 32 then some (⟨px, h.1⟩, ⟨py, h.2⟩) else none

/-- The body of R113's inner loop for a set sprite bit: toggle the pixel, and note a collision when it was on. -/
def drawSetBit (edge : SpriteEdge) (px py : Nat) (acc : Framebuffer × Bool) : Framebuffer × Bool :=
  match spriteTarget edge px py with
  | some (x, y) => (togglePixel acc.1 x y, acc.2 || pixelAt acc.1 x y)
  | none => acc

/-- R113's loop over the columns `c` of one row at `py`: bit `7 - c` of the byte is column `c` (R112). -/
def drawColumns (edge : SpriteEdge) (x0 py : Nat) (row : Byte) : List Nat → Framebuffer × Bool → Framebuffer × Bool
  | [], acc => acc
  | c :: cs, acc =>
    drawColumns edge x0 py row cs (if row.getLsbD (7 - c) then drawSetBit edge (x0 + c) py acc else acc)

/-- One row of a sprite: columns 0 to 7. -/
def drawRow (edge : SpriteEdge) (x0 py : Nat) (row : Byte) (acc : Framebuffer × Bool) : Framebuffer × Bool :=
  drawColumns edge x0 py row [0, 1, 2, 3, 4, 5, 6, 7] acc

/-- R113's loop over the rows, the first at `py`. The second component is the collision bit. -/
def drawRows (edge : SpriteEdge) (x0 : Nat) : Nat → List Byte → Framebuffer × Bool → Framebuffer × Bool
  | _, [], acc => acc
  | py, row :: rows, acc => drawRows edge x0 (py + 1) rows (drawRow edge x0 py row acc)

/-- The sprite's left column: `V[x] mod 64` (R111). -/
def State.originX (s : State) (x : Reg) : Nat := (s.reg x).toNat % 64

/-- The sprite's top row: `V[y] mod 32` (R111). -/
def State.originY (s : State) (y : Reg) : Nat := (s.reg y).toNat % 32

/-- `clear-screen` (R110). -/
def execClearScreen (s : State) : Result := .next (s.advance.setFb clearFb).markDirty

/-- `draw` (R113): the sources and the sprite are read first, the pixels are toggled, `V[15]` gets the collision bit and
`DIRTY` is set. An out-of-bounds sprite byte faults before any write. -/
def execDraw (x y : Reg) (n : Nibble) (s : State) : Result :=
  match s.readBytes s.ea n.toNat with
  | none => .next (s.raise .outOfBoundsAccess)
  | some rows =>
    let drawn := drawRows s.cfg.spriteEdge (s.originX x) (s.originY y) rows (s.fb, false)
    .next ((s.advance.setFb drawn.1).setReg 15 (collisionFlag drawn.2)).markDirty

end Sys2Proof.Machine
end

