-- ==== Sys2Proof/Machine/IndexMemory.lean ====
section
/-! DEFINITION. The index register and the memory transfers (43_index_memory.md). A transfer checks every address it will
touch before it moves a byte, and either faults with no effect or completes (20_memory.md R60). -/

namespace Sys2Proof.Machine

/-- `load-index` (R200). -/
def execLoadIndex (nnn : Addr12) (s : State) : Result := .next (s.advance.setIndex (addrWord nnn))

/-- `add-to-index` (R201): `I` is cut to 16 bits; `V[15]` is written only with `INDEX_OVERFLOW_FLAG`, last. -/
def execAddToIndex (x : Reg) (s : State) : Result :=
  let t := s.advance.setIndex (BitVec.ofNat 16 (s.indexSum x))
  .next (if s.cfg.indexOverflowFlag then t.setReg 15 (indexOverflowByte (s.indexSum x)) else t)

/-- `load-font-address` (R202). -/
def execLoadFontAddress (x : Reg) (s : State) : Result :=
  if (s.reg x).toNat > 15 then .next (s.raise .outOfBoundsAccess)
  else .next (s.advance.setIndex (fontAddress s.cfg (s.reg x)))

/-- `store-bcd` (R210). -/
def execStoreBcd (x : Reg) (s : State) : Result :=
  match s.advance.writeBytes s.ea (bcdDigits (s.reg x)) with
  | none => .next (s.raise .outOfBoundsAccess)
  | some t => .next t

/-- `store-registers` (R212, R216). -/
def execStoreRegisters (x : Reg) (s : State) : Result :=
  match s.advance.writeBytes s.ea (s.regBlock x) with
  | none => .next (s.raise .outOfBoundsAccess)
  | some t => .next (t.advanceIndex x)

/-- `load-registers` (R214, R216). -/
def execLoadRegisters (x : Reg) (s : State) : Result :=
  match s.readBytes s.ea (x.val + 1) with
  | none => .next (s.raise .outOfBoundsAccess)
  | some bytes => .next ((s.advance.setRegs bytes).advanceIndex x)

end Sys2Proof.Machine
end

