-- ==== Sys2Proof/Machine/KeysTimers.lean ====
section
/-! DEFINITION. The key skips, the timer transfers and `wait-for-key` (44_keys_timers.md). Every key test reads the snapshot
`KEYS` of the instruction's own step (R230). -/

namespace Sys2Proof.Machine

/-- `skip-if-key-pressed` (R231). -/
def execSkipIfKeyPressed (x : Reg) (s : State) : Result :=
  match s.keyOf x with
  | none => .next (s.raise .invalidKeyIndex)
  | some pressed => .next (s.advance.skipIf pressed)

/-- `skip-if-key-not-pressed` (R232). -/
def execSkipIfKeyNotPressed (x : Reg) (s : State) : Result :=
  match s.keyOf x with
  | none => .next (s.raise .invalidKeyIndex)
  | some pressed => .next (s.advance.skipIf !pressed)

/-- `load-delay-timer` (R233). -/
def execLoadDelayTimer (x : Reg) (s : State) : Result := .next (s.advance.setReg x s.dt)

/-- `wait-for-key` (R236): with no key pressed the fetch advance is undone. -/
def execWaitForKey (x : Reg) (s : State) : Result :=
  match lowestKey s.keys with
  | none => .next (s.advance.setPc (s.advance.pc - 2))
  | some k => .next (s.advance.setReg x (keyByte k))

/-- `set-delay-timer` (R234). -/
def execSetDelayTimer (x : Reg) (s : State) : Result := .next (s.advance.setDt (s.reg x))

/-- `set-sound-timer` (R235). -/
def execSetSoundTimer (x : Reg) (s : State) : Result := .next (s.advance.setSt (s.reg x))

end Sys2Proof.Machine
end

