-- ==== Sys2Proof/Machine/Dispatch.lean ====
section
/-! DEFINITION. One arm per constructor of Instr, each one direct call of the instruction's meaning. The state is the one
at the start of the instruction's step, its key snapshot taken (41_control_flow.md R131). -/

namespace Sys2Proof.Machine

def exec (i : Instr) (s : State) : Host.Outcome State Fault Refusal :=
  match i with
  | .clearScreen => Sys2Proof.Machine.execClearScreen s
  | .ret => Sys2Proof.Machine.execRet s
  | .jump nnn => Sys2Proof.Machine.execJump nnn s
  | .call nnn => Sys2Proof.Machine.execCall nnn s
  | .skipIfEqualImmediate x kk => Sys2Proof.Machine.execSkipIfEqualImmediate x kk s
  | .skipIfNotEqualImmediate x kk => Sys2Proof.Machine.execSkipIfNotEqualImmediate x kk s
  | .skipIfEqualRegisters x y => Sys2Proof.Machine.execSkipIfEqualRegisters x y s
  | .skipIfNotEqualRegisters x y => Sys2Proof.Machine.execSkipIfNotEqualRegisters x y s
  | .loadImmediate x kk => Sys2Proof.Machine.execLoadImmediate x kk s
  | .addImmediate x kk => Sys2Proof.Machine.execAddImmediate x kk s
  | .aluLoad x y => Sys2Proof.Machine.execAluLoad x y s
  | .aluOr x y => Sys2Proof.Machine.execAluOr x y s
  | .aluAnd x y => Sys2Proof.Machine.execAluAnd x y s
  | .aluXor x y => Sys2Proof.Machine.execAluXor x y s
  | .aluAdd x y => Sys2Proof.Machine.execAluAdd x y s
  | .aluSub x y => Sys2Proof.Machine.execAluSub x y s
  | .aluShr x y => Sys2Proof.Machine.execAluShr x y s
  | .aluSubn x y => Sys2Proof.Machine.execAluSubn x y s
  | .aluShl x y => Sys2Proof.Machine.execAluShl x y s
  | .loadIndex nnn => Sys2Proof.Machine.execLoadIndex nnn s
  | .jumpOffset nnn => Sys2Proof.Machine.execJumpOffset nnn s
  | .random x kk => Sys2Proof.Machine.execRandom x kk s
  | .draw x y n => Sys2Proof.Machine.execDraw x y n s
  | .skipIfKeyPressed x => Sys2Proof.Machine.execSkipIfKeyPressed x s
  | .skipIfKeyNotPressed x => Sys2Proof.Machine.execSkipIfKeyNotPressed x s
  | .loadDelayTimer x => Sys2Proof.Machine.execLoadDelayTimer x s
  | .waitForKey x => Sys2Proof.Machine.execWaitForKey x s
  | .setDelayTimer x => Sys2Proof.Machine.execSetDelayTimer x s
  | .setSoundTimer x => Sys2Proof.Machine.execSetSoundTimer x s
  | .addToIndex x => Sys2Proof.Machine.execAddToIndex x s
  | .loadFontAddress x => Sys2Proof.Machine.execLoadFontAddress x s
  | .storeBcd x => Sys2Proof.Machine.execStoreBcd x s
  | .storeRegisters x => Sys2Proof.Machine.execStoreRegisters x s
  | .loadRegisters x => Sys2Proof.Machine.execLoadRegisters x s

end Sys2Proof.Machine
end

