-- ==== Sys2Proof/Machine/HostPort.lean ====
section
/-! DEFINITION. The timer clock and the host's interactions with the core, each one atomic step (60_exceptions.md R275, R280
to R284; 70_reset_and_hazards.md R300 to R302). -/

namespace Sys2Proof.Machine

/-- One timer counter, clamped at 0 (R275). -/
def countDown (t : Byte) : Byte := if t = 0 then 0 else t - 1

/-- One pulse of the timer clock, in every status (R275, R277). It returns nothing. -/
def State.tick (s : State) : State := { s with dt := countDown s.dt, st := countDown s.st, reply := .nothing }

/-- A key write replaces all 16 bits at once (R282). It returns nothing. -/
def State.keyWrite (s : State) (keys : Vector Bool 16) : State := { s with keyState := keys, reply := .nothing }

/-- A display read returns all pixels and the current `DIRTY`, and clears `DIRTY` (R284). -/
def State.displayRead (s : State) : State := { s with dirty := false, reply := .display s.fb s.dirty }

/-- A ROM load: a full reset, or, for a ROM above 3584 bytes, `RomTooLarge` returned and no state changed (R300, R302). -/
def State.romLoad (s : State) (cfg : Config) (rom : List Byte) : State :=
  if romWellFormed rom then s.reload cfg rom else { s with reply := .rejected .romTooLarge }

/-- What a status read returns (R280). -/
structure StatusReport where
  status : Status
  faultCode : BitVec 3
  faultPc : Word
  faultWord : Word
  dt : Byte
  st : Byte
  deriving DecidableEq, Repr

/-- A status read: the host may read at any time, and it changes nothing ("A model has no move for it", R280). -/
def State.statusRead (s : State) : StatusReport where
  status := s.status
  faultCode := s.faultCode
  faultPc := s.faultPc
  faultWord := s.faultWord
  dt := s.dt
  st := s.st

end Sys2Proof.Machine
end

