-- ==== Sys2Proof/Machine/Engine.lean ====
section
/-! DEFINITION. The instruction engine's step (41_control_flow.md R130, R131), one step of any agent (20_memory.md R65, R66),
and how a word is placed where the next step runs it. -/

namespace Sys2Proof.Machine

/-- The state at the start of an instruction step: the key snapshot is taken, and the step has returned nothing yet but
that it was issued with no effect (R131, 44_keys_timers.md R230). -/
def State.beginStep (s : State) : State := { s with keys := s.keyState, reply := .issued .none none }

/-- Fetch, decode, execute, from the state at the start of the step. The priority is the fetch bound, `UnknownOpcode`, the
instruction's own check (60_exceptions.md R263). -/
def runInstruction (s : State) : Result :=
  match s.fetchWord with
  | none => .next (s.raise .outOfBoundsAccess)
  | some w =>
    match decode s.cfg.decodeStrict w with
    | .unknown _ => .next (s.raise .unknownOpcode)
    | .known i => exec i s

/-- An issue pulse that is ignored: "the state is unchanged" (93_implementation_defined.md I27), and it returns nothing. -/
def State.ignorePulse (s : State) : State := { s with reply := .nothing }

/-- One issue pulse: a whole instruction step when `RUNNING`; in `IDLE` or `FAULTED` it "does nothing" (R131) and returns
nothing. -/
def issue (s : State) : Result :=
  match s.status with
  | .running => runInstruction s.beginStep
  | .idle => .next s.ignorePulse
  | .faulted => .next s.ignorePulse

/-- One step of one agent (R65, R66). -/
def act (e : Event) (s : State) : Result :=
  match e with
  | .issue => issue s
  | .tick => .next s.tick
  | .keyWrite keys => .next (s.keyWrite keys)
  | .displayRead => .next s.displayRead
  | .romLoad cfg rom => .next (s.romLoad cfg rom)

/-- The next agent to move: the head of the agenda, and an issue pulse past its end (log 3). -/
def State.nextEvent (s : State) : Event := s.agenda.headD .issue

/-- The state with the next agent's step taken off the agenda. -/
def State.popEvent (s : State) : State := { s with agenda := s.agenda.tail }

/-- The agenda with an issue pulse next. -/
def issueNext (agenda : List Event) : List Event :=
  match agenda with
  | [] => []
  | .issue :: rest => .issue :: rest
  | e :: rest => .issue :: e :: rest

/-- The state with a word in memory where the next step fetches it: at `pc`, or at 0x200 where `pc` is past the last
instruction address; the engine is `RUNNING` and an issue pulse is next, since a load brings a program to run (log 2). -/
def State.placeWord (s : State) (w : Word) : State :=
  let at' : Nat := if addressOk (s.pc.toNat + 1) then s.pc.toNat else romBase
  { s.storeFrom at' (wordBytes w) with pc := BitVec.ofNat 16 at', status := .running, agenda := issueNext s.agenda }

end Sys2Proof.Machine
end

