-- ==== Sys2Proof/Machine/Step.lean ====
section
/-! DEFINITION. One step of the machine: the next agent on the agenda moves (20_memory.md R65, R66). -/

namespace Sys2Proof.Machine

/-- One atomic step of the agent whose turn it is. With nothing on the agenda it is an instruction step. -/
def step (s : State) : Host.Outcome State Fault Refusal := act s.nextEvent s.popEvent

/-- `s` with an instruction's word placed where the next step fetches and runs it; bits from `nbits` up are 0. -/
def State.withFetchWord (s : State) (nbits w : Nat) : State := s.placeWord (BitVec.ofNat 16 (w % 2 ^ nbits))

end Sys2Proof.Machine
end

