-- ==== Sys2Proof/Safety.lean ====
section
/-! DEFINITION. The invariants of the machine, how a run ends (70_reset_and_hazards.md R311), and what a program may never
change. -/

namespace Sys2Proof.Machine

/-- Memory is in its canonical form. -/
def State.memoryWf (s : State) : Prop := s.mem.wf s.cfg = true

/-- "It always holds a value in 0..16" (10_state.md R28). -/
def State.spInRange (s : State) : Prop := s.sp.toNat ≤ 16

/-- The bounds of 10_state.md R26 and 41_control_flow.md R130: every value written to `pc` is at most 0x10FE, and every
return address is an advanced fetch address, at most 0x1000. -/
def State.pcInRange (s : State) : Prop := s.pc.toNat ≤ 0x10FE ∧ ∀ k : Fin 16, s.stack[k].toNat ≤ 0x1000

/-- The fault registers agree with `STATUS` (R41, R42, R265): all 0 outside `FAULTED`; in it, the code of a fault an
instruction raises and the address `pc` still holds. -/
def State.faultRegsAgree (s : State) : Prop :=
  (s.status ≠ .faulted → s.faultCode = 0 ∧ s.faultPc = 0 ∧ s.faultWord = 0) ∧
    (s.status = .faulted → s.faultPc = s.pc ∧ ∃ f : FaultKind, f ≠ .romTooLarge ∧ s.faultCode = f.code)

/-- While `PROTECT_RESERVED` holds, the reserved region holds its reset contents, the font among them (20_memory.md R57). -/
def State.reservedIntact (s : State) : Prop :=
  s.cfg.protectReserved = true → ∀ a, a ≤ reservedEnd → s.readByte a = unlisted s.cfg a

/-- All the invariants together. -/
def State.Inv (s : State) : Prop :=
  s.memoryWf ∧ s.spInRange ∧ s.pcInRange ∧ s.faultRegsAgree ∧ s.reservedIntact

/-- A run is at its good end: `pc` is the halt address and the word there jumps to itself (R311). -/
def State.atHalt (s : State) (h : Addr12) : Prop :=
  s.status = .running ∧ s.pc = addrWord h ∧
    ∃ w, s.fetchWord = some w ∧ decode s.cfg.decodeStrict w = .known (.jump h)

/-- A run has ended badly (R311). -/
def State.endedBadly (s : State) : Prop := s.status = .faulted

end Sys2Proof.Machine
end

