-- ==== Sys2Proof/Certificates/Slice0/Obligations.lean ====
section
/-! DEFINITION. The statements for the provers, over all states unless a premise says otherwise. Helpers stand first, under
Sys2Proof.Claims; each statement's docstring names the rule or section of spec/ it formalises. A statement whose rule is
the spec's own decision, or that rests on a choice of the model, is marked derived in OBLIGATIONS.json. -/

open Sys2Proof Sys2Proof.Machine

namespace Sys2Proof.Claims

/-! ### Helpers -/

/-- `t` is `s` but for the general registers and `pc`: every other piece of state, and every byte of memory, is as before. -/
def onlyRegs (s t : State) : Prop :=
  t = { s with v := t.v, pc := t.pc } ∧ ∀ a, t.readByte a = s.readByte a

/-- `t` is `s` but for `pc`. -/
def onlyPc (s t : State) : Prop := t = { s with pc := t.pc } ∧ ∀ a, t.readByte a = s.readByte a

/-- `t` is `s` but for `I` and `pc`. -/
def onlyIndex (s t : State) : Prop :=
  t = { s with index := t.index, pc := t.pc } ∧ ∀ a, t.readByte a = s.readByte a

/-- Register `x` of `t` is `b` and every other register is as in `s`. -/
def oneReg (s t : State) (x : Reg) (b : Byte) : Prop := t.reg x = b ∧ ∀ r, r ≠ x → t.reg r = s.reg r

/-- The result `b` went to register `x` and then the flag to register 15: with `x = 15` the flag stays (R22). -/
def resultAndFlag (s t : State) (x : Reg) (b : Byte) (flag : Bool) : Prop :=
  t.reg 15 = (if flag then 1 else 0) ∧ (x ≠ 15 → t.reg x = b) ∧ ∀ r, r ≠ x → r ≠ 15 → t.reg r = s.reg r

/-- The state a fault `f` of the instruction word `w` leaves when the step started from `s` (60_exceptions.md R265). -/
def faultEntry (s : State) (f : FaultKind) (w : Word) : State :=
  { s with
    status := .faulted
    faultCode := f.code
    faultPc := s.pc
    faultWord := w
    reply := .issued .none (some f) }

/-- The causes of 60_exceptions.md R261 for an instruction, with `V`, `I`, `SP` at the start of its step. -/
def listedFault (i : Instr) (s : State) : Option FaultKind :=
  match i with
  | .call _ => if s.sp.toNat = 16 then some .stackOverflow else none
  | .ret => if s.sp.toNat = 0 then some .stackUnderflow else none
  | .draw _ _ n => if 1 ≤ n.toNat ∧ s.ea + n.toNat - 1 ≥ 0x1000 then some .outOfBoundsAccess else none
  | .storeBcd _ =>
    if s.ea + 2 ≥ 0x1000 ∨ (s.cfg.protectReserved = true ∧ s.ea ≤ 0x1FF) then some .outOfBoundsAccess else none
  | .storeRegisters x =>
    if s.ea + x.val ≥ 0x1000 ∨ (s.cfg.protectReserved = true ∧ s.ea ≤ 0x1FF) then some .outOfBoundsAccess else none
  | .loadRegisters x => if s.ea + x.val ≥ 0x1000 then some .outOfBoundsAccess else none
  | .loadFontAddress x => if (s.reg x).toNat > 15 then some .outOfBoundsAccess else none
  | .skipIfKeyPressed x => if (s.reg x).toNat > 15 then some .invalidKeyIndex else none
  | .skipIfKeyNotPressed x => if (s.reg x).toNat > 15 then some .invalidKeyIndex else none
  | _ => none

/-- Whether a key skip's key is down: `KEYS[V[x]]` (44_keys_timers.md R231). -/
def keyDown (s : State) (x : Reg) : Bool := (s.keys[(s.reg x).toNat]?).getD false

/-- Where 41_control_flow.md R132 leaves `pc` after an instruction at `s.pc` that does not fault. -/
def pcAfter (i : Instr) (s : State) : Word :=
  match i with
  | .jump nnn => BitVec.ofNat 16 nnn.toNat
  | .call nnn => BitVec.ofNat 16 nnn.toNat
  | .ret => s.stackAt (s.sp.toNat - 1)
  | .jumpOffset nnn => BitVec.ofNat 16 ((s.reg 0).toNat + nnn.toNat)
  | .skipIfEqualImmediate x kk => if s.reg x = kk then s.pc + 4 else s.pc + 2
  | .skipIfNotEqualImmediate x kk => if s.reg x = kk then s.pc + 2 else s.pc + 4
  | .skipIfEqualRegisters x y => if s.reg x = s.reg y then s.pc + 4 else s.pc + 2
  | .skipIfNotEqualRegisters x y => if s.reg x = s.reg y then s.pc + 2 else s.pc + 4
  | .skipIfKeyPressed x => if keyDown s x then s.pc + 4 else s.pc + 2
  | .skipIfKeyNotPressed x => if keyDown s x then s.pc + 2 else s.pc + 4
  | .waitForKey _ => if ∃ k : Reg, s.keys[k] = true then s.pc + 2 else s.pc
  | _ => s.pc + 2

/-- Whether the sprite bit at row `r`, column `c` of the sprite at (`x0`, `y0`) lands on the pixel (`x`, `y`), by the edge
policy (40_display.md R115). -/
def bitLandsOn (edge : SpriteEdge) (x0 y0 r c : Nat) (x : Fin 64) (y : Fin 32) : Prop :=
  match edge with
  | .clip => x0 + c = x.val ∧ y0 + r = y.val
  | .wrap => (x0 + c) % 64 = x.val ∧ (y0 + r) % 32 = y.val

/-- Whether a draw toggles the pixel (`x`, `y`): some set bit of the `n` sprite bytes at `I` lands on it (R111 to R115). -/
def drawToggles (s : State) (vx vy : Reg) (n : Nibble) (x : Fin 64) (y : Fin 32) : Prop :=
  ∃ r < n.toNat, ∃ c < 8, (s.readByte (s.ea + r)).getLsbD (7 - c) = true ∧
    bitLandsOn s.cfg.spriteEdge ((s.reg vx).toNat % 64) ((s.reg vy).toNat % 32) r c x y

/-- The outcome with `ST` replaced in the next state. -/
def withSt (b : Byte) : Result → Result
  | .next t => .next { t with st := b }
  | o => o

/-- The outcome with `DT` replaced in the next state. -/
def withDt (b : Byte) : Result → Result
  | .next t => .next { t with dt := b }
  | o => o

/-- The outcome with `KEYSTATE` replaced in the next state. -/
def withKeyState (ks : Vector Bool 16) : Result → Result
  | .next t => .next { t with keyState := ks }
  | o => o

/-- `call nnn` executed `k` times in a row, stopping where it does not answer a next state. -/
def callTimes (nnn : Addr12) : Nat → State → Result
  | 0, s => .next s
  | k + 1, s =>
    match callTimes nnn k s with
    | .next t => exec (.call nnn) t
    | o => o

/-- The instructions that write `V[15]` as a flag when the machine runs under `cfg` (10_state.md R21). -/
def writesFlag (cfg : Config) : Instr → Bool
  | .aluAdd _ _ => true
  | .aluSub _ _ => true
  | .aluShr _ _ => true
  | .aluSubn _ _ => true
  | .aluShl _ _ => true
  | .draw _ _ _ => true
  | .addToIndex _ => cfg.indexOverflowFlag
  | _ => false

/-- The registers an instruction writes as an ordinary destination (10_state.md R23). -/
def isDestination (i : Instr) (r : Reg) : Prop :=
  match i with
  | .loadImmediate x _ => r = x
  | .addImmediate x _ => r = x
  | .aluLoad x _ => r = x
  | .aluOr x _ => r = x
  | .aluAnd x _ => r = x
  | .aluXor x _ => r = x
  | .aluAdd x _ => r = x
  | .aluSub x _ => r = x
  | .aluShr x _ => r = x
  | .aluSubn x _ => r = x
  | .aluShl x _ => r = x
  | .random x _ => r = x
  | .loadDelayTimer x => r = x
  | .waitForKey x => r = x
  | .loadRegisters x => r ≤ x
  | _ => False

/-- The instructions that write `I` under `cfg` (10_state.md R24). -/
def writesIndex (cfg : Config) : Instr → Bool
  | .loadIndex _ => true
  | .addToIndex _ => true
  | .loadFontAddress _ => true
  | .storeRegisters _ => cfg.loadStoreIncrement == .xPlusOne
  | .loadRegisters _ => cfg.loadStoreIncrement == .xPlusOne
  | _ => false

/-- `clear-screen` and `draw`, the instructions that set `DIRTY` (10_state.md R33). -/
def marksDirty : Instr → Bool
  | .clearScreen => true
  | .draw _ _ _ => true
  | _ => false

/-- The stores (20_memory.md R51). -/
def isStore : Instr → Bool
  | .storeBcd _ => true
  | .storeRegisters _ => true
  | _ => false

/-- The table L2.1 of 95_test_vectors.md, row by row: a word, and what it decodes to with `DECODE_STRICT` false and true. -/
def tableL21 : List (Word × Decoded × Decoded) := [
  (0x00E0, .known .clearScreen, .known .clearScreen),
  (0x0000, .known .clearScreen, .unknown 0x0000),
  (0x0120, .known .clearScreen, .unknown 0x0120),
  (0x00EE, .known .ret, .known .ret),
  (0x012E, .known .ret, .unknown 0x012E),
  (0x0001, .unknown 0x0001, .unknown 0x0001),
  (0x0FFF, .unknown 0x0FFF, .unknown 0x0FFF),
  (0x5120, .known (.skipIfEqualRegisters 1 2), .known (.skipIfEqualRegisters 1 2)),
  (0x5121, .known (.skipIfEqualRegisters 1 2), .unknown 0x5121),
  (0x9AB3, .known (.skipIfNotEqualRegisters 10 11), .unknown 0x9AB3),
  (0x8008, .unknown 0x8008, .unknown 0x8008),
  (0x800F, .unknown 0x800F, .unknown 0x800F),
  (0x812E, .known (.aluShl 1 2), .known (.aluShl 1 2)),
  (0xE09E, .known (.skipIfKeyPressed 0), .known (.skipIfKeyPressed 0)),
  (0xE00E, .known (.skipIfKeyPressed 0), .unknown 0xE00E),
  (0xE0A1, .known (.skipIfKeyNotPressed 0), .known (.skipIfKeyNotPressed 0)),
  (0xE011, .known (.skipIfKeyNotPressed 0), .unknown 0xE011),
  (0xE002, .unknown 0xE002, .unknown 0xE002),
  (0xF000, .unknown 0xF000, .unknown 0xF000),
  (0xF0FF, .unknown 0xF0FF, .unknown 0xF0FF),
  (0xF20A, .known (.waitForKey 2), .known (.waitForKey 2)),
  (0xD12F, .known (.draw 1 2 15), .known (.draw 1 2 15))]

/-- What a byte of memory is right after the load of a ROM (70_reset_and_hazards.md R300): the ROM from 0x200 on,
`FONT_TABLE` at `FONT_BASE`, and 0 elsewhere. -/
def loadedByte (cfg : Config) (rom : List Byte) (a : Nat) : Byte :=
  if 0x200 ≤ a then (rom[a - 0x200]?).getD 0
  else if fontBaseAddr cfg.fontBase ≤ a then (cfg.fontTable[a - fontBaseAddr cfg.fontBase]?).getD 0
  else 0

/-- `call` and `return` (10_state.md R27). -/
def usesStack : Instr → Bool
  | .call _ => true
  | .ret => true
  | _ => false

end Sys2Proof.Claims

open Sys2Proof.Claims

/-! ### Reset, power-on and the ROM load -/

/-- 10_state.md R45, with a ROM of length 0 in the default configuration (log 2): the value of every state right after
reset. The values of `keys`, `agenda`, `reply` and `draws` are the model's (log 3, 4, 5, 6) and not stated. Rests on the
spec's decisions D2, D3, D25, D37 and on log 2. The last clause fixes the default base 0x050 (decision D17, G4) and the
standard font bytes (G3), which R45 does not give: both are the spec's general knowledge, PRESUMED (log 11). -/
def Obligations.ResetLeavesTheTabledState : Prop :=
  (∀ r, State.reset.reg r = 0) ∧ State.reset.index = 0 ∧ State.reset.pc = 0x200 ∧ State.reset.sp = 0 ∧
    (∀ k : Fin 16, State.reset.stack[k] = 0) ∧ State.reset.dt = 0 ∧ State.reset.st = 0 ∧
    (∀ k : Reg, State.reset.keyState[k] = false) ∧ (∀ x y, pixelAt State.reset.fb x y = false) ∧
    State.reset.dirty = false ∧ State.reset.status = .running ∧ State.reset.faultCode = 0 ∧
    State.reset.faultPc = 0 ∧ State.reset.faultWord = 0 ∧
    ∀ a, State.reset.readByte a =
      if 0x050 ≤ a ∧ a < 0x050 + 80 then (standardFont[a - 0x050]?).getD 0 else 0

/-- 10_state.md R46, 70_reset_and_hazards.md R303: at power-on the engine is `IDLE`, an issue pulse leaves every state
of the core, and the load of a ROM of length 0 in the default configuration gives the state after reset. Rests on the
spec's decision D37 and on log 2 and log 5. -/
def Obligations.PowerOnIsIdleUntilALoad : Prop :=
  State.powerOn.status = .idle ∧
    act .issue State.powerOn = .next State.powerOn ∧
    act (.romLoad defaultConfig []) State.powerOn = .next State.reset

/-- 70_reset_and_hazards.md R300: from any state, whatever its `STATUS`, a ROM of at most 3584 bytes resets every
register, clears the fault registers, gives every byte of memory its value after the load, starts at 0x200 in `RUNNING`
under the given parameters, and leaves `KEYSTATE`. Rests on the spec's decisions D2 (`STATUS`), D3 (the fault registers),
D17 (the font), D25 (`DIRTY`), D28 and D37 (any status, `KEYSTATE`). That the load carries the parameters is the model's
choice (log 1); the fields of log 3 to log 6 are the model's and not stated. -/
def Obligations.RomLoadResetsTheState : Prop :=
  ∀ (s : State) (cfg : Config) (rom : List Byte), rom.length ≤ 3584 →
    ∃ t, act (.romLoad cfg rom) s = .next t ∧
      (∀ r, t.reg r = 0) ∧ t.index = 0 ∧ t.pc = 0x200 ∧ t.sp = 0 ∧ (∀ k : Fin 16, t.stack[k] = 0) ∧ t.dt = 0 ∧ t.st = 0 ∧
      (∀ x y, pixelAt t.fb x y = false) ∧ t.dirty = false ∧ t.status = .running ∧ t.faultCode = 0 ∧ t.faultPc = 0 ∧
      t.faultWord = 0 ∧ (∀ a, t.readByte a = loadedByte cfg rom a) ∧ t.cfg = cfg ∧ t.keyState = s.keyState

/-- 70_reset_and_hazards.md R302: a longer ROM returns `RomTooLarge` and changes no state, in any `STATUS`. Rests on the
spec's decision D28; the reply field is log 5. -/
def Obligations.OversizedRomIsRejected : Prop :=
  ∀ (s : State) (cfg : Config) (rom : List Byte), 3584 < rom.length →
    act (.romLoad cfg rom) s = .next { s with reply := .rejected .romTooLarge }

/-- 70_reset_and_hazards.md R301: byte i of the ROM goes to 0x200 + i unchanged and the rest up to 0xFFF is 0, whether or
not `PROTECT_RESERVED` holds. R300: the load, not the copy, leaves the font table at `FONT_BASE` and zeros elsewhere below
0x200, whatever stood there. Rests on the spec's decisions D17, D28, D37; that the load carries the parameters is the
model's choice (log 1). -/
def Obligations.RomIsCopiedVerbatim : Prop :=
  ∀ (s : State) (cfg : Config) (rom : List Byte), rom.length ≤ 3584 →
    ∃ t, act (.romLoad cfg rom) s = .next t ∧
      (∀ (i : Nat) (b : Byte), rom[i]? = some b → t.readByte (0x200 + i) = b) ∧
      (∀ a, 0x200 + rom.length ≤ a → a ≤ 0xFFF → t.readByte a = 0) ∧
      (∀ k : Fin 80, t.readByte (fontBaseAddr cfg.fontBase + k) = cfg.fontTable[k]) ∧
      (∀ a, a ≤ 0x1FF → (a < fontBaseAddr cfg.fontBase ∨ fontBaseAddr cfg.fontBase + 80 ≤ a) → t.readByte a = 0)

/-! ### Invariants -/

/-- The invariants hold right after reset and at power-on. Rests on the spec's decisions D2, D3, D7, D37 and on log 2
and log 7. -/
def Obligations.InvariantsHoldAtReset : Prop := State.reset.Inv ∧ State.powerOn.Inv

/-- Memory stays in its canonical form: no step of any agent leaves an address out of bounds, out of order or listed
with its reset content. The canonical form is the model's (log 7). -/
def Obligations.StepKeepsMemoryCanonical : Prop :=
  ∀ s t : State, s.memoryWf → step s = .next t → t.memoryWf

/-- 10_state.md R26, R28 and 41_control_flow.md R130: `SP` stays in 0 to 16, and with it `pc` stays at most 0x10FE and
every return address at most 0x1000. Rests on the spec's decisions D8, D9, D32. -/
def Obligations.StepKeepsStackPointerAndPcInRange : Prop :=
  (∀ s t : State, s.spInRange → step s = .next t → t.spInRange) ∧
    ∀ s t : State, s.pcInRange → s.spInRange → step s = .next t → t.pcInRange

/-- 10_state.md R41, R42: the fault registers stay 0 outside `FAULTED` and stay the record of the fault in it. Rests on
the spec's decisions D3, D5. -/
def Obligations.StepKeepsFaultRegistersAgreed : Prop :=
  ∀ s t : State, s.faultRegsAgree → step s = .next t → t.faultRegsAgree

/-- 20_memory.md R57: while `PROTECT_RESERVED` holds, the reserved region keeps its reset contents. Rests on the spec's
decision D7. -/
def Obligations.StepKeepsReservedRegionIntact : Prop :=
  ∀ s t : State, s.reservedIntact → step s = .next t → t.reservedIntact

/-- The machine never stops where `SP` is in range (an invariant): every step answers a next state (60_exceptions.md
R265: a fault of the hardware is a state, and R266: an issue pulse in `FAULTED` is ignored). Rests on the spec's
decisions D3, D4, D5 and on log 8. -/
def Obligations.StepAlwaysAnswersANextState : Prop :=
  ∀ s : State, s.spInRange → ∃ t, step s = .next t

/-- The model's own stop (log 9): with `SP` above 16, which no step brings about, `call` and `return` stop by name. The
model's choice (log 9). -/
def Obligations.StackInstructionsStopAboveSixteen : Prop :=
  ∀ (s : State) (nnn : Addr12), 16 < s.sp.toNat →
    exec (.call nnn) s = .fault .stackPointerOutOfRange ∧ exec .ret s = .fault .stackPointerOutOfRange

/-! ### Encoding -/

/-- 30_encoding.md R84 to R86: in both decoder modes the word the encoder writes decodes to the instruction, with every
operand at every value. Rests on the numeric opcodes of log 10 and the spec's decision D10. -/
def Obligations.DecodeOfEncodeIsTheInstruction : Prop :=
  ∀ (strict : Bool) (i : Instr), decode strict (encode i) = .known i

/-- 30_encoding.md R86: with `DECODE_STRICT` true every bit is fixed or an operand, so a word that decodes is the
encoding of what it decodes to, and it decodes to the same with `DECODE_STRICT` false. Rests on the numeric opcodes of
log 10 and the spec's decision D10. -/
def Obligations.StrictDecodeLosesNoBit : Prop :=
  ∀ (w : Word) (i : Instr), decode true w = .known i → encode i = w ∧ decode false w = .known i

/-- 30_encoding.md R87: the unknown words of both modes. Rests on the numeric opcodes of log 10 and the spec's decisions
D10, D11. -/
def Obligations.UnknownWordsAreTheListedOnes : Prop :=
  ∀ w : Word,
    let group := w.toNat / 0x1000
    let n := w.toNat % 16
    let kk := w.toNat % 256
    (decode false w = .unknown w ↔
      (group = 0 ∧ n ≠ 0x0 ∧ n ≠ 0xE) ∨ (group = 8 ∧ (0x8 ≤ n ∧ n ≤ 0xD ∨ n = 0xF)) ∨ (group = 0xE ∧ n ≠ 0x1 ∧ n ≠ 0xE) ∨
      (group = 0xF ∧ kk ∉ [0x07, 0x0A, 0x15, 0x18, 0x1E, 0x29, 0x33, 0x55, 0x65])) ∧
    (decode true w = .unknown w ↔
      decode false w = .unknown w ∨ (group = 0 ∧ w ≠ 0x00E0 ∧ w ≠ 0x00EE) ∨ ((group = 5 ∨ group = 9) ∧ n ≠ 0) ∨
      (group = 0xE ∧ kk ≠ 0x9E ∧ kk ≠ 0xA1))

/-- 95_test_vectors.md L2.1: every word of the table decodes as the table says, in both decoder modes. 30_encoding.md R83,
R86: with `DECODE_STRICT` false the ignored bits change nothing, for every word of group 0 with a selector of a row
(bits 11:4), of groups 5 and 9 (`n`), and of group E with a selector of a row (bits 7:4). Rests on the numeric opcodes of
log 10 and the spec's decisions D10, D11. -/
def Obligations.TabledWordsDecodeAsTheTableSays : Prop :=
  (∀ row ∈ tableL21, decode false row.1 = row.2.1 ∧ decode true row.1 = row.2.2) ∧
    (∀ ignored : BitVec 8, decode false (0x0#4 ++ ignored ++ 0x0#4) = .known .clearScreen ∧
      decode false (0x0#4 ++ ignored ++ 0xE#4) = .known .ret) ∧
    (∀ x y ignored : BitVec 4, decode false (0x5#4 ++ x ++ y ++ ignored) = .known (.skipIfEqualRegisters x.toFin y.toFin) ∧
      decode false (0x9#4 ++ x ++ y ++ ignored) = .known (.skipIfNotEqualRegisters x.toFin y.toFin)) ∧
    ∀ x ignored : BitVec 4, decode false (0xE#4 ++ x ++ ignored ++ 0xE#4) = .known (.skipIfKeyPressed x.toFin) ∧
      decode false (0xE#4 ++ x ++ ignored ++ 0x1#4) = .known (.skipIfKeyNotPressed x.toFin)

/-! ### The step -/

/-- 41_control_flow.md R131: when the engine is `RUNNING`, an issue pulse is next and the word at `pc` decodes to `i`,
the step is `exec i` of the state with the key snapshot taken, that pulse off the agenda and its reply begun. The agenda
and the reply are the model's (log 3, log 5). -/
def Obligations.StepRunsTheDecodedInstruction : Prop :=
  ∀ (s : State) (w : Word) (i : Instr), s.status = .running → s.nextEvent = .issue → s.fetchWord = some w →
    decode s.cfg.decodeStrict w = .known i →
    step s = exec i { s with keys := s.keyState, reply := .issued .none none, agenda := s.agenda.tail }

/-- 20_memory.md R61, 41_control_flow.md R130: the word is the byte at `pc` times 256 plus the byte at `pc + 1`, whatever the
parity of `pc`. -/
def Obligations.FetchIsBigEndian : Prop :=
  ∀ s : State, s.pc.toNat + 1 < 0x1000 →
    ∃ w, s.fetchWord = some w ∧ w.toNat = (s.readByte s.pc.toNat).toNat * 256 + (s.readByte (s.pc.toNat + 1)).toNat

/-- 41_control_flow.md R130, 10_state.md R42: at `pc` 0xFFF or above an instruction step is an `OutOfBoundsAccess` with
`FAULT_WORD` 0x0000. 30_encoding.md R84, R87: an unknown word raises `UnknownOpcode` with `FAULT_WORD` set to the word.
Rests on the spec's decisions D3, D8, D9, D34. -/
def Obligations.FetchAndDecodeFaultBeforeExecution : Prop :=
  (∀ s : State, s.status = .running → s.nextEvent = .issue → 0xFFF ≤ s.pc.toNat →
      step s = .next (faultEntry { s with keys := s.keyState, agenda := s.agenda.tail } .outOfBoundsAccess 0x0000)) ∧
    ∀ (s : State) (w : Word), s.status = .running → s.nextEvent = .issue → s.fetchWord = some w →
      decode s.cfg.decodeStrict w = .unknown w →
      step s = .next (faultEntry { s with keys := s.keyState, agenda := s.agenda.tail } .unknownOpcode w)

/-- 41_control_flow.md R131, 60_exceptions.md R266: in `IDLE` and `FAULTED` an issue pulse changes no state of the core.
Rests on the spec's decisions D2, D5; the agenda and the reply are the model's (log 3, log 5). -/
def Obligations.IssueIsIgnoredUnlessRunning : Prop :=
  ∀ s : State, s.status ≠ .running → s.nextEvent = .issue →
    step s = .next { s with agenda := s.agenda.tail, reply := .nothing }

/-! ### Faults -/

/-- 60_exceptions.md R261, R262: with `SP` in range, an instruction faults exactly in the listed cases, by the entry of
R265, and otherwise completes with `STATUS` as it was. Rests on the spec's decisions D3, D4, D7, D16, D18 and on log 8.
-/
def Obligations.InstructionsFaultExactlyAsListed : Prop :=
  ∀ (i : Instr) (s : State) (w : Word), s.spInRange → s.fetchWord = some w →
    match listedFault i s with
    | some f => exec i s = .next (faultEntry s f w)
    | none => ∃ t, exec i s = .next t ∧ t.status = s.status ∧ t.faultCode = s.faultCode ∧ t.faultPc = s.faultPc ∧
        t.faultWord = s.faultWord

/-- 60_exceptions.md R265: a step that enters `FAULTED` leaves nothing of the instruction: all state is as at its start
but `STATUS`, the fault registers and the result. Rests on the spec's decisions D3, D4 and on log 8. -/
def Obligations.FaultEntryIsPrecise : Prop :=
  ∀ s t : State, s.status ≠ .faulted → step s = .next t → t.status = .faulted →
    s.status = .running ∧ s.nextEvent = .issue ∧ ∃ f, f ≠ .romTooLarge ∧
      t = faultEntry { s with keys := s.keyState, agenda := s.agenda.tail } f (s.fetchWord.getD 0x0000)

/-- 60_exceptions.md R266: from `FAULTED` a step that is not an accepted ROM load stays in `FAULTED` and can change only
the timers (a tick), `KEYSTATE` (a key write) and `DIRTY` (a display read). Rests on the spec's decisions D5, D23. -/
def Obligations.FaultedIsLeftOnlyByALoad : Prop :=
  ∀ s t : State, s.status = .faulted → (∀ cfg rom, s.nextEvent = .romLoad cfg rom → 3584 < rom.length) → step s = .next t →
    t = { s with dt := t.dt, st := t.st, keyState := t.keyState, dirty := t.dirty, agenda := s.agenda.tail, reply := t.reply } ∧
      (t.dt ≠ s.dt ∨ t.st ≠ s.st → s.nextEvent = .tick) ∧
      (t.keyState ≠ s.keyState → s.nextEvent = .keyWrite t.keyState) ∧
      (t.dirty ≠ s.dirty → s.nextEvent = .displayRead)

/-! ### The timer clock and the host -/

/-- 60_exceptions.md R275: a tick decrements each timer that is above 0 and changes nothing else, in every `STATUS` (R277). -/
def Obligations.TickCountsBothTimersDown : Prop :=
  ∀ s : State, ∃ t, act .tick s = .next t ∧
    (0 < s.dt.toNat → t.dt.toNat = s.dt.toNat - 1) ∧ (s.dt.toNat = 0 → t.dt.toNat = 0) ∧
    (0 < s.st.toNat → t.st.toNat = s.st.toNat - 1) ∧ (s.st.toNat = 0 → t.st.toNat = 0) ∧
    t = { s with dt := t.dt, st := t.st, reply := t.reply }

/-- 95_test_vectors.md L1.8, 70_reset_and_hazards.md R313: k ticks take k off each timer, clamped at 0, and a second's
ticks (60 a second) take 120 to 60. Rests on the spec's decision D23. -/
def Obligations.TicksAddUp : Prop :=
  (∀ (s : State) (k : Nat), (State.tick^[k] s).dt.toNat = s.dt.toNat - k ∧ (State.tick^[k] s).st.toNat = s.st.toNat - k) ∧
    ∀ s : State, s.dt = 120 → (State.tick^[timerRate] s).dt = 60

/-- 60_exceptions.md R282, 10_state.md R30: a key write replaces all 16 bits and changes nothing else; `KEYSTATE` is
read-only to the core, so no other step changes it. Rests on the spec's decisions D22, D36, D37. -/
def Obligations.OnlyKeyWritesReplaceTheKeys : Prop :=
  (∀ (s : State) (ks : Vector Bool 16), ∃ t, act (.keyWrite ks) s = .next t ∧ (∀ k : Reg, t.keyState[k] = ks[k]) ∧
      t = { s with keyState := t.keyState, reply := t.reply }) ∧
    ∀ s t : State, step s = .next t → t.keyState ≠ s.keyState → s.nextEvent = .keyWrite t.keyState

/-- 60_exceptions.md R284: a display read returns all pixels and the `DIRTY` from before it, clears `DIRTY`, and a
second read then returns `DIRTY` 0. Rests on the spec's decisions D25, D36 and on log 5. -/
def Obligations.DisplayReadReturnsAndClears : Prop :=
  ∀ s : State, ∃ t u, act .displayRead s = .next t ∧ t = { s with dirty := false, reply := .display s.fb s.dirty } ∧
    act .displayRead t = .next u ∧ u.reply = .display s.fb false

/-- 10_state.md R43, 70_reset_and_hazards.md R300: the parameters are fixed for a run; only an accepted load replaces
them. That the load carries the parameters is log 1. -/
def Obligations.ParametersChangeOnlyAtALoad : Prop :=
  ∀ s t : State, step s = .next t → t.cfg ≠ s.cfg → ∃ rom, s.nextEvent = .romLoad t.cfg rom ∧ rom.length ≤ 3584

/-! ### Rules over all instructions -/

/-- 41_control_flow.md R132: where every instruction that does not fault leaves `pc`. Rests on the spec's decisions D8,
D9, D21, D32. -/
def Obligations.EveryInstructionKeepsThePcDiscipline : Prop :=
  ∀ (i : Instr) (s t : State), s.status ≠ .faulted → exec i s = .next t → t.status ≠ .faulted → t.pc = pcAfter i s

/-- 10_state.md R21, R23: a register is written only as an ordinary destination, or, for register 15, as a flag. Rests
on the spec's decisions D12, D14, D19. -/
def Obligations.RegistersAreWrittenOnlyAsNamed : Prop :=
  ∀ (i : Instr) (s t : State) (r : Reg), exec i s = .next t → ¬isDestination i r →
    ¬(r = 15 ∧ writesFlag s.cfg i = true) → t.reg r = s.reg r

/-- 10_state.md R24, R27; 20_memory.md R51: only the named instructions write `I`, only the two stores write memory, and
only `call` and `return` reach the stack and its pointer. Rests on the spec's decisions D6, D20, D32. -/
def Obligations.IndexMemoryAndStackAreWrittenOnlyAsNamed : Prop :=
  ∀ (i : Instr) (s t : State), exec i s = .next t →
    (writesIndex s.cfg i = false → t.index = s.index) ∧
      (isStore i = false → ∀ a, t.readByte a = s.readByte a) ∧
      (usesStack i = false → t.stack = s.stack ∧ t.sp = s.sp)

/-- 10_state.md R33, 40_display.md R116: `clear-screen` and `draw` set `DIRTY` and answer `display-dirty` when they
complete; every other instruction, and a fault, leaves `DIRTY`, and only those two write a pixel. Rests on the spec's
decisions D4, D25 and on log 5. -/
def Obligations.OnlyDisplayInstructionsMarkDirty : Prop :=
  ∀ (i : Instr) (s t : State), s.status ≠ .faulted → exec i s = .next t →
    (t.status ≠ .faulted → marksDirty i = true → t.dirty = true ∧ t.reply = .issued .displayDirty none) ∧
      (t.status ≠ .faulted → marksDirty i = false → t.dirty = s.dirty ∧ t.fb = s.fb ∧ t.reply = s.reply) ∧
      (t.status = .faulted → t.dirty = s.dirty ∧ t.fb = s.fb ∧ ∃ f, t.reply = .issued .none (some f))

/-- 10_state.md R29: "No instruction reads `ST`", and 60_exceptions.md R268: "A program sees time only by reading `DT`",
with `load-delay-timer`. Two states that differ in one timer alone differ in it alone after any instruction but the one
that reads it, and are equal after the one that writes it. Rests on the spec's decision D26 and the timer directions of
log 11. -/
def Obligations.TimersAreReadOnlyAsNamed : Prop :=
  ∀ (i : Instr) (s : State) (b : Byte),
    ((∀ x, i ≠ .setSoundTimer x) → exec i { s with st := b } = withSt b (exec i s)) ∧
      (∀ x, i = .setSoundTimer x → exec i { s with st := b } = exec i s) ∧
      ((∀ x, i ≠ .loadDelayTimer x) → (∀ x, i ≠ .setDelayTimer x) → exec i { s with dt := b } = withDt b (exec i s)) ∧
      ∀ x, i = .setDelayTimer x → exec i { s with dt := b } = exec i s

/-- 44_keys_timers.md R230: an instruction reads only the snapshot, so `KEYSTATE` does not matter once it has begun.
Rests on the spec's decision D22. -/
def Obligations.InstructionsReadOnlyTheKeySnapshot : Prop :=
  ∀ (i : Instr) (s : State) (ks : Vector Bool 16), exec i { s with keyState := ks } = withKeyState ks (exec i s)

/-! ### Display -/

/-- 40_display.md R110: every pixel 0, `DIRTY` 1 with its effect, nothing else but `pc`. -/
def Obligations.ClearScreenClearsEveryPixel : Prop :=
  ∀ s : State, ∃ t, exec .clearScreen s = .next t ∧ (∀ x y, pixelAt t.fb x y = false) ∧
    t = { s with fb := t.fb, dirty := true, reply := .issued .displayDirty none, pc := s.pc + 2 }

/-- 40_display.md R111, R112, R113, R115: where every sprite byte is in bounds, or `n = 0`, exactly the pixels some set
sprite bit lands on are inverted; registers but 15, `I`, memory and the rest are as before. Rests on the spec's
decisions D15, D16, D25, D35 and the bit order of log 11. -/
def Obligations.DrawTogglesTheSpritePixels : Prop :=
  ∀ (vx vy : Reg) (n : Nibble) (s : State), n.toNat = 0 ∨ s.ea + n.toNat - 1 < 0x1000 →
    ∃ t, exec (.draw vx vy n) s = .next t ∧
      (∀ x y, drawToggles s vx vy n x y → pixelAt t.fb x y = !pixelAt s.fb x y) ∧
      (∀ x y, ¬drawToggles s vx vy n x y → pixelAt t.fb x y = pixelAt s.fb x y) ∧
      (∀ r : Reg, r ≠ 15 → t.reg r = s.reg r) ∧
      t = { s with fb := t.fb, v := t.v, dirty := true, reply := .issued .displayDirty none, pc := s.pc + 2 } ∧
      ∀ a, t.readByte a = s.readByte a

/-- 40_display.md R114: `V[15]` is 1 exactly when a pixel the draw toggles was on, else 0, whatever it held and also
when `x` or `y` is 15. Rests on the spec's decisions D15, D16 and the bit order of log 11. -/
def Obligations.DrawReportsCollisionInRegister15 : Prop :=
  ∀ (vx vy : Reg) (n : Nibble) (s t : State), s.status ≠ .faulted → exec (.draw vx vy n) s = .next t → t.status ≠ .faulted →
    ((∃ x y, drawToggles s vx vy n x y ∧ pixelAt s.fb x y = true) → t.reg 15 = 1) ∧
      ((∀ x y, drawToggles s vx vy n x y → pixelAt s.fb x y = false) → t.reg 15 = 0)

/-- 40_display.md R117, 95_test_vectors.md L1.4: the same sprite drawn twice at the same origin, modulo the frame and
with `x` or `y` 15 too where register 15 keeps it, restores every pixel, and the second draw reports a collision exactly
when the first turned a pixel on. Rests on the spec's decisions D15, D16 and its resolution C3. -/
def Obligations.DrawingTwiceRestoresTheFramebuffer : Prop :=
  ∀ (vx vy : Reg) (n : Nibble) (s t u : State), s.status ≠ .faulted → exec (.draw vx vy n) s = .next t → t.status ≠ .faulted →
    (t.reg vx).toNat % 64 = (s.reg vx).toNat % 64 → (t.reg vy).toNat % 32 = (s.reg vy).toNat % 32 →
    exec (.draw vx vy n) t = .next u →
    u.fb = s.fb ∧ (u.reg 15 = 1 ↔ ∃ x y, pixelAt s.fb x y = false ∧ pixelAt t.fb x y = true)

/-! ### Control flow -/

/-- 41_control_flow.md R134, R140: the absolute and the computed jump; only `pc` changes, and no target is masked. Rests
on the spec's decisions D8, D9. -/
def Obligations.JumpsSetThePc : Prop :=
  ∀ (nnn : Addr12) (s : State),
    (∃ t, exec (.jump nnn) s = .next t ∧ t.pc.toNat = nnn.toNat ∧ onlyPc s t) ∧
      ∃ t, exec (.jumpOffset nnn) s = .next t ∧ t.pc.toNat = (s.reg 0).toNat + nnn.toNat ∧ onlyPc s t

/-- 41_control_flow.md R135, 10_state.md R28: a call with a free entry pushes its own address plus 2 and jumps; the
other entries and all other state are as before. Rests on the spec's decision D32 and its resolution C4. -/
def Obligations.CallPushesTheReturnAddress : Prop :=
  ∀ (nnn : Addr12) (s : State) (k : Fin 16), s.sp.toNat = k.val →
    ∃ t, exec (.call nnn) s = .next t ∧ t.stack[k] = s.pc + 2 ∧ (∀ j : Fin 16, j ≠ k → t.stack[j] = s.stack[j]) ∧
      t.sp.toNat = k.val + 1 ∧ t.pc.toNat = nnn.toNat ∧
      t = { s with stack := t.stack, sp := t.sp, pc := t.pc } ∧ ∀ a, t.readByte a = s.readByte a

/-- 41_control_flow.md R133, 10_state.md R28: a return with an entry in use pops it into `pc` unmasked, and the entry
stays. Rests on the spec's decision D32. -/
def Obligations.ReturnPopsIntoThePc : Prop :=
  ∀ (s : State) (k : Fin 16), s.sp.toNat = k.val + 1 →
    ∃ t, exec .ret s = .next t ∧ t.pc = s.stack[k] ∧ t.sp.toNat = k.val ∧ t = { s with sp := t.sp, pc := t.pc } ∧
      ∀ a, t.readByte a = s.readByte a

/-- 95_test_vectors.md L1.5, L1.6: a return right after a call resumes at the instruction after the call with the old
`SP`; from an empty stack 16 nested calls succeed and the 17th is a `StackOverflow`. Rests on the spec's decisions D3,
D32 and its resolution C4. -/
def Obligations.CallsNestSixteenDeepAndReturn : Prop :=
  (∀ (nnn : Addr12) (s t u : State), s.spInRange → s.status ≠ .faulted → exec (.call nnn) s = .next t → t.status ≠ .faulted →
      exec .ret t = .next u → u.pc = s.pc + 2 ∧ u.sp = s.sp ∧ u.status = s.status) ∧
    ∀ (nnn : Addr12) (s : State), s.sp = 0 →
      (∀ k ≤ 16, ∃ t, callTimes nnn k s = .next t ∧ t.sp.toNat = k ∧ t.status = s.status) ∧
        ∃ t, callTimes nnn 17 s = .next t ∧ t.sp.toNat = 16 ∧ t.status = .faulted ∧ t.faultCode = 2

/-- 41_control_flow.md R136 to R139: the skips compare `V[x]` with a byte or a register, with `x = y` too; only `pc`
changes, and none can fault. Rests on the spec's decision D10 for the words that encode the register skips. -/
def Obligations.SkipsCompareAndMoveOnlyThePc : Prop :=
  ∀ (x y : Reg) (kk : Byte) (s : State),
    (∃ t, exec (.skipIfEqualImmediate x kk) s = .next t ∧ t.pc = (if s.reg x = kk then s.pc + 4 else s.pc + 2) ∧ onlyPc s t) ∧
      (∃ t, exec (.skipIfNotEqualImmediate x kk) s = .next t ∧ t.pc = (if s.reg x = kk then s.pc + 2 else s.pc + 4) ∧
        onlyPc s t) ∧
      (∃ t, exec (.skipIfEqualRegisters x y) s = .next t ∧ t.pc = (if s.reg x = s.reg y then s.pc + 4 else s.pc + 2) ∧
        onlyPc s t) ∧
      ∃ t, exec (.skipIfNotEqualRegisters x y) s = .next t ∧ t.pc = (if s.reg x = s.reg y then s.pc + 2 else s.pc + 4) ∧
        onlyPc s t

/-- 70_reset_and_hazards.md R311: at its good end a program loops for as long as only issue pulses come. Rests on the
spec's decision D38. -/
def Obligations.HaltedProgramStaysAtItsHalt : Prop :=
  ∀ (s : State) (h : Addr12), s.atHalt h → s.nextEvent = .issue →
    ∃ t, step s = .next t ∧ t.atHalt h ∧
      t = { s with keys := s.keyState, agenda := s.agenda.tail, reply := .issued .none none }

/-! ### Arithmetic and logic -/

/-- 42_alu.md R160, R161: the immediate forms write register `x` alone, register 15 among them as an ordinary one, with no
flag; the sum wraps at 8 bits. -/
def Obligations.ImmediateFormsWriteOneRegister : Prop :=
  ∀ (x : Reg) (kk : Byte) (s : State),
    (∃ t, exec (.loadImmediate x kk) s = .next t ∧ oneReg s t x kk ∧ t.pc = s.pc + 2 ∧ onlyRegs s t) ∧
      ∃ t, exec (.addImmediate x kk) s = .next t ∧
        oneReg s t x (BitVec.ofNat 8 (((s.reg x).toNat + kk.toNat) % 256)) ∧ t.pc = s.pc + 2 ∧ onlyRegs s t

/-- 42_alu.md R162 to R165: copy, or, and, exclusive or, bit by bit; register 15 is written only as `x`. Rests on the
spec's decision D14. -/
def Obligations.LogicFormsWriteOneRegister : Prop :=
  ∀ (x y : Reg) (s : State),
    (∃ t, exec (.aluLoad x y) s = .next t ∧ oneReg s t x (s.reg y) ∧ t.pc = s.pc + 2 ∧ onlyRegs s t) ∧
      (∃ t, exec (.aluOr x y) s = .next t ∧ (∀ k, (t.reg x).getLsbD k = ((s.reg x).getLsbD k || (s.reg y).getLsbD k)) ∧
        (∀ r, r ≠ x → t.reg r = s.reg r) ∧ t.pc = s.pc + 2 ∧ onlyRegs s t) ∧
      (∃ t, exec (.aluAnd x y) s = .next t ∧ (∀ k, (t.reg x).getLsbD k = ((s.reg x).getLsbD k && (s.reg y).getLsbD k)) ∧
        (∀ r, r ≠ x → t.reg r = s.reg r) ∧ t.pc = s.pc + 2 ∧ onlyRegs s t) ∧
      ∃ t, exec (.aluXor x y) s = .next t ∧ (∀ k, (t.reg x).getLsbD k = ((s.reg x).getLsbD k ^^ (s.reg y).getLsbD k)) ∧
        (∀ r, r ≠ x → t.reg r = s.reg r) ∧ t.pc = s.pc + 2 ∧ onlyRegs s t

/-- 42_alu.md R166: the sum modulo 256 and the carry, the flag last. Rests on the spec's decision D12. -/
def Obligations.AluAddWritesSumAndCarry : Prop :=
  ∀ (x y : Reg) (s : State), ∃ t, exec (.aluAdd x y) s = .next t ∧
    resultAndFlag s t x (BitVec.ofNat 8 (((s.reg x).toNat + (s.reg y).toNat) % 256))
      (decide ((s.reg x).toNat + (s.reg y).toNat > 255)) ∧ t.pc = s.pc + 2 ∧ onlyRegs s t

/-- 42_alu.md R167, R169: the difference modulo 256, plus 256 when it borrows, and the not-borrow flag, the flag last.
Rests on the spec's decision D12. -/
def Obligations.SubtractionsWriteDifferenceAndNotBorrow : Prop :=
  ∀ (x y : Reg) (s : State),
    (∃ t, exec (.aluSub x y) s = .next t ∧
      resultAndFlag s t x (s.reg x - s.reg y) (decide ((s.reg y).toNat ≤ (s.reg x).toNat)) ∧ t.pc = s.pc + 2 ∧ onlyRegs s t) ∧
      ∃ t, exec (.aluSubn x y) s = .next t ∧
        resultAndFlag s t x (s.reg y - s.reg x) (decide ((s.reg x).toNat ≤ (s.reg y).toNat)) ∧ t.pc = s.pc + 2 ∧ onlyRegs s t

/-- 42_alu.md R168, R170: the shifts by one of `V[x]` or `V[y]` by `SHIFT_SOURCE`, with the bit shifted out as the flag,
last. Rests on the spec's decisions D12, D13. -/
def Obligations.ShiftsWriteResultAndBitShiftedOut : Prop :=
  ∀ (x y : Reg) (s : State),
    let src : Byte := if s.cfg.shiftSource = .vx then s.reg x else s.reg y
    (∃ t, exec (.aluShr x y) s = .next t ∧
      resultAndFlag s t x (BitVec.ofNat 8 (src.toNat / 2)) (decide (src.toNat % 2 = 1)) ∧ t.pc = s.pc + 2 ∧ onlyRegs s t) ∧
      ∃ t, exec (.aluShl x y) s = .next t ∧
        resultAndFlag s t x (BitVec.ofNat 8 (src.toNat * 2 % 256)) (decide (128 ≤ src.toNat)) ∧ t.pc = s.pc + 2 ∧ onlyRegs s t

/-- 42_alu.md R181: for whatever byte the outside supplies (the free value of log 4), `V[x]` is that byte masked with
`kk`, so it never has a bit `kk` lacks, and with `kk = 0` it is 0; each execution draws afresh. Rests on the spec's
decision D24 and the free value of log 4. -/
def Obligations.RandomMasksAFreshByte : Prop :=
  ∀ (x : Reg) (kk : Byte) (s : State), ∃ t, exec (.random x kk) s = .next t ∧
    oneReg s t x (Config.randomByte s.draws &&& kk) ∧ t.draws = s.draws + 1 ∧
    (∀ k, (t.reg x).getLsbD k = true → kk.getLsbD k = true) ∧ (kk = 0 → t.reg x = 0) ∧
    t = { s with v := t.v, draws := t.draws, pc := s.pc + 2 } ∧ ∀ a, t.readByte a = s.readByte a

/-! ### Index register and memory transfers -/

/-- 43_index_memory.md R200: `I` is the zero-extended address. -/
def Obligations.LoadIndexSetsTheIndex : Prop :=
  ∀ (nnn : Addr12) (s : State), ∃ t, exec (.loadIndex nnn) s = .next t ∧ t.index.toNat = nnn.toNat ∧ t.pc = s.pc + 2 ∧
    onlyIndex s t

/-- 43_index_memory.md R201: `I` is the sum modulo 2^16; `V[15]` is the overflow past 0xFFF with `INDEX_OVERFLOW_FLAG`,
and unchanged without it. Rests on the spec's decisions D6, D19. -/
def Obligations.AddToIndexAddsExactly : Prop :=
  ∀ (x : Reg) (s : State), ∃ t, exec (.addToIndex x) s = .next t ∧
    t.index.toNat = (s.index.toNat + (s.reg x).toNat) % 65536 ∧
    (s.cfg.indexOverflowFlag = true → oneReg s t 15 (if s.index.toNat + (s.reg x).toNat > 0xFFF then 1 else 0)) ∧
    (s.cfg.indexOverflowFlag = false → ∀ r, t.reg r = s.reg r) ∧
    t = { s with index := t.index, v := t.v, pc := s.pc + 2 } ∧ ∀ a, t.readByte a = s.readByte a

/-- 43_index_memory.md R202, 20_memory.md R58: the glyph of a digit 0 to 15 is at `FONT_BASE + 5*d`. Rests on the spec's
decisions D17, D18. -/
def Obligations.LoadFontAddressPointsAtTheGlyph : Prop :=
  ∀ (x : Reg) (s : State), (s.reg x).toNat ≤ 15 → ∃ t, exec (.loadFontAddress x) s = .next t ∧
    t.index.toNat = (match s.cfg.fontBase with | .at000 => 0x000 | .at050 => 0x050) + 5 * (s.reg x).toNat ∧
    t.pc = s.pc + 2 ∧ onlyIndex s t

/-- 43_index_memory.md R210: in bounds and outside a protected region, the three digits go to `I`, `I + 1`, `I + 2`,
each 0 to 9, and every other byte and all other state but `pc` is as before. Rests on the spec's decisions D4, D7. -/
def Obligations.StoreBcdStoresThreeDigits : Prop :=
  ∀ (x : Reg) (s : State), s.ea + 2 < 0x1000 → ¬(s.cfg.protectReserved = true ∧ s.ea ≤ 0x1FF) →
    ∃ t, exec (.storeBcd x) s = .next t ∧
      (s.reg x).toNat = 100 * (t.readByte s.ea).toNat + 10 * (t.readByte (s.ea + 1)).toNat + (t.readByte (s.ea + 2)).toNat ∧
      (t.readByte s.ea).toNat ≤ 2 ∧ (t.readByte (s.ea + 1)).toNat ≤ 9 ∧ (t.readByte (s.ea + 2)).toNat ≤ 9 ∧
      (∀ a, a < s.ea ∨ s.ea + 2 < a → t.readByte a = s.readByte a) ∧ t = { s with mem := t.mem, pc := s.pc + 2 }

/-- 43_index_memory.md R212, R216: `V[0]` to `V[x]` go to memory from `I` on, `I` moves by `x + 1` only under
`x_plus_1`, and every other byte and all other state but `pc` is as before. Rests on the spec's decisions D4, D7, D20
and the amount of log 11. -/
def Obligations.StoreRegistersStoresTheBlock : Prop :=
  ∀ (x : Reg) (s : State), s.ea + x.val < 0x1000 → ¬(s.cfg.protectReserved = true ∧ s.ea ≤ 0x1FF) →
    ∃ t, exec (.storeRegisters x) s = .next t ∧
      (∀ k : Reg, k ≤ x → t.readByte (s.ea + k.val) = s.reg k) ∧
      (∀ a, a < s.ea ∨ s.ea + x.val < a → t.readByte a = s.readByte a) ∧
      (s.cfg.loadStoreIncrement = .none → t.index = s.index) ∧
      (s.cfg.loadStoreIncrement = .xPlusOne → t.index.toNat = (s.index.toNat + x.val + 1) % 65536) ∧
      t = { s with mem := t.mem, index := t.index, pc := s.pc + 2 }

/-- 43_index_memory.md R214, R216: `V[0]` to `V[x]` come from memory from `I` on, the registers above keep their values,
`I` moves by `x + 1` only under `x_plus_1`, and memory and all other state but `pc` is as before. Rests on the spec's
decisions D4, D20 and the amount of log 11. -/
def Obligations.LoadRegistersLoadsTheBlock : Prop :=
  ∀ (x : Reg) (s : State), s.ea + x.val < 0x1000 →
    ∃ t, exec (.loadRegisters x) s = .next t ∧
      (∀ k : Reg, k ≤ x → t.reg k = s.readByte (s.ea + k.val)) ∧ (∀ k : Reg, x < k → t.reg k = s.reg k) ∧
      (s.cfg.loadStoreIncrement = .none → t.index = s.index) ∧
      (s.cfg.loadStoreIncrement = .xPlusOne → t.index.toNat = (s.index.toNat + x.val + 1) % 65536) ∧
      t = { s with v := t.v, index := t.index, pc := s.pc + 2 } ∧ ∀ a, t.readByte a = s.readByte a

/-- 20_memory.md R69: a word stored at the next instruction's address is the word the next fetch reads. Rests on the
spec's decision D31. -/
def Obligations.StoreIsSeenByTheNextFetch : Prop :=
  ∀ (x : Reg) (s t : State) (j k : Reg), s.status ≠ .faulted → exec (.storeRegisters x) s = .next t → t.status ≠ .faulted →
    k.val = j.val + 1 → k ≤ x → t.pc.toNat = s.ea + j.val →
    ∃ w, t.fetchWord = some w ∧ w.toNat = (s.reg j).toNat * 256 + (s.reg k).toNat

/-! ### Keys and timers -/

/-- 44_keys_timers.md R231, R232: with `V[x]` a key index the skips test the snapshot's key; only `pc` changes. Rests on
the spec's decision D22. -/
def Obligations.KeySkipsTestTheSnapshot : Prop :=
  ∀ (x : Reg) (s : State) (k : Reg), (s.reg x).toNat = k.val →
    (∃ t, exec (.skipIfKeyPressed x) s = .next t ∧ t.pc = (if s.keys[k] = true then s.pc + 4 else s.pc + 2) ∧ onlyPc s t) ∧
      ∃ t, exec (.skipIfKeyNotPressed x) s = .next t ∧ t.pc = (if s.keys[k] = true then s.pc + 2 else s.pc + 4) ∧ onlyPc s t

/-- 44_keys_timers.md R233, R234, R235: the three copies between `V[x]` and a timer. The directions are general
knowledge of the spec (log 11). -/
def Obligations.TimerTransfersCopyTheByte : Prop :=
  ∀ (x : Reg) (s : State),
    (∃ t, exec (.loadDelayTimer x) s = .next t ∧ oneReg s t x s.dt ∧ t.pc = s.pc + 2 ∧ onlyRegs s t) ∧
      (∃ t, exec (.setDelayTimer x) s = .next t ∧ t = { s with dt := s.reg x, pc := s.pc + 2 } ∧
        ∀ a, t.readByte a = s.readByte a) ∧
      ∃ t, exec (.setSoundTimer x) s = .next t ∧ t = { s with st := s.reg x, pc := s.pc + 2 } ∧
        ∀ a, t.readByte a = s.readByte a

/-- 44_keys_timers.md R236, R237: with no key pressed the step leaves the whole state, so the instruction is issued
again; else the lowest pressed index goes to `V[x]` and `pc` moves on. Rests on the spec's decisions D21, D22. -/
def Obligations.WaitForKeyTakesTheLowestKey : Prop :=
  ∀ (x : Reg) (s : State),
    ((∀ k : Reg, s.keys[k] = false) → exec (.waitForKey x) s = .next s) ∧
      ∀ k : Reg, s.keys[k] = true → (∀ j : Reg, j < k → s.keys[j] = false) →
        ∃ t, exec (.waitForKey x) s = .next t ∧ (t.reg x).toNat = k.val ∧ (∀ r, r ≠ x → t.reg r = s.reg r) ∧
          t.pc = s.pc + 2 ∧ onlyRegs s t
end

