-- ==== Sys2Proof/Laws/Decode.lean ====
section
/-! SUPPORT. The laws of the encoding: the fields of an encoded word, what a row's mask leaves of it, and that no word matches
two rows in either decoder mode (30_encoding.md R85). -/

namespace Sys2Proof

/-! ### Bits and fields of the encoder's words -/

theorem regBits_toFin (x : Reg) : (regBits x).toFin = x := by revert x; decide

theorem regBits_of_toFin (x : Nibble) : regBits x.toFin = x := by revert x; decide

theorem getLsbD_wordXkk (g : Nibble) (x : Reg) (kk : Byte) (i : Nat) :
    (wordXkk g x kk).getLsbD i =
      if i < 8 then kk.getLsbD i else if i < 12 then (regBits x).getLsbD (i - 8) else g.getLsbD (i - 12) := by
  have h1 : (wordXkk g x kk).getLsbD i = if i < 8 then kk.getLsbD i else (g ++ regBits x).getLsbD (i - 8) :=
    BitVec.getLsbD_append (x := g ++ regBits x) (y := kk)
  have h2 : (g ++ regBits x).getLsbD (i - 8) = if i - 8 < 4 then (regBits x).getLsbD (i - 8) else g.getLsbD (i - 8 - 4) :=
    BitVec.getLsbD_append
  rw [h1, h2]
  split
  · rfl
  · split
    · rw [if_pos (by omega)]
    · rw [if_neg (by omega), Nat.sub_sub]

theorem getLsbD_wordNnn (g : Nibble) (nnn : Addr12) (i : Nat) :
    (wordNnn g nnn).getLsbD i = if i < 12 then nnn.getLsbD i else g.getLsbD (i - 12) :=
  BitVec.getLsbD_append (x := g) (y := nnn)

theorem fieldX_wordXkk (g : Nibble) (x : Reg) (kk : Byte) : fieldX (wordXkk g x kk) = x := by
  have : (wordXkk g x kk).extractLsb' 8 4 = regBits x := by
    ext i hi
    simp only [BitVec.getElem_extractLsb', getLsbD_wordXkk]
    rw [if_neg (by omega), if_pos (by omega), Nat.add_sub_cancel_left, BitVec.getLsbD_eq_getElem hi]
  rw [fieldX, this, regBits_toFin]

theorem fieldKk_wordXkk (g : Nibble) (x : Reg) (kk : Byte) : fieldKk (wordXkk g x kk) = kk := by
  ext i hi
  simp only [fieldKk, BitVec.getElem_extractLsb', getLsbD_wordXkk]
  rw [if_pos (by omega), Nat.zero_add, BitVec.getLsbD_eq_getElem hi]

theorem fieldNnn_wordNnn (g : Nibble) (nnn : Addr12) : fieldNnn (wordNnn g nnn) = nnn := by
  ext i hi
  simp only [fieldNnn, BitVec.getElem_extractLsb', getLsbD_wordNnn]
  rw [if_pos (by omega), Nat.zero_add, BitVec.getLsbD_eq_getElem hi]

theorem fieldX_wordXyn (g : Nibble) (x y : Reg) (n : Nibble) : fieldX (wordXyn g x y n) = x := fieldX_wordXkk g x _

theorem fieldY_wordXyn (g : Nibble) (x y : Reg) (n : Nibble) : fieldY (wordXyn g x y n) = y := by
  have : (wordXyn g x y n).extractLsb' 4 4 = regBits y := by
    ext i hi
    simp only [wordXyn, BitVec.getElem_extractLsb', getLsbD_wordXkk, BitVec.getLsbD_append]
    rw [if_pos (by omega), if_neg (by omega), Nat.add_sub_cancel_left, BitVec.getLsbD_eq_getElem hi]
  rw [fieldY, this, regBits_toFin]

theorem fieldN_wordXyn (g : Nibble) (x y : Reg) (n : Nibble) : fieldN (wordXyn g x y n) = n := by
  ext i hi
  simp only [fieldN, wordXyn, BitVec.getElem_extractLsb', getLsbD_wordXkk, BitVec.getLsbD_append]
  rw [if_pos (by omega), if_pos (by omega), Nat.zero_add, BitVec.getLsbD_eq_getElem hi]

/-! ### What a mask leaves -/

theorem and_wordXkk (g mg : Nibble) (x : Reg) (kk mk : Byte) :
    wordXkk g x kk &&& wordXkk mg 0 mk = wordXkk (g &&& mg) 0 (kk &&& mk) := by
  refine BitVec.eq_of_getLsbD_eq fun i _ => ?_
  simp only [BitVec.getLsbD_and, getLsbD_wordXkk]
  split
  · rfl
  · split <;> simp [regBits]

theorem and_wordNnn (g mg : Nibble) (nnn mn : Addr12) : wordNnn g nnn &&& wordNnn mg mn = wordNnn (g &&& mg) (nnn &&& mn) := by
  refine BitVec.eq_of_getLsbD_eq fun i _ => ?_
  simp only [BitVec.getLsbD_and, getLsbD_wordNnn]
  split <;> rfl

theorem and_allOnes4 (g : Nibble) : g &&& 0xF#4 = g := by revert g; decide

/-- Mask 0xF000 leaves the group of a word `gnnn`. -/
theorem group_wordNnn (g : Nibble) (nnn : Addr12) : wordNnn g nnn &&& (0xF000 : Word) = wordNnn g 0 := by
  have h := and_wordNnn g 0xF#4 nnn 0
  rw [and_allOnes4, show nnn &&& (0 : Addr12) = 0 by simp] at h
  exact h

/-- Mask 0xF000 leaves the group of a word `gxkk`. -/
theorem group_wordXkk (g : Nibble) (x : Reg) (kk : Byte) : wordXkk g x kk &&& (0xF000 : Word) = wordXkk g 0 0 := by
  have h := and_wordXkk g 0xF#4 x kk 0
  rw [and_allOnes4, show kk &&& (0 : Byte) = 0 by simp] at h
  exact h

/-- Mask 0xF00F leaves the group and the low nibble. -/
theorem lowNibble_wordXkk (g : Nibble) (x : Reg) (kk : Byte) :
    wordXkk g x kk &&& (0xF00F : Word) = wordXkk g 0 (kk &&& 0x0F#8) := by
  have h := and_wordXkk g 0xF#4 x kk 0x0F#8
  rwa [and_allOnes4] at h

/-- Mask 0xF0FF leaves the group and the low byte. -/
theorem lowByte_wordXkk (g : Nibble) (x : Reg) (kk : Byte) : wordXkk g x kk &&& (0xF0FF : Word) = wordXkk g 0 kk := by
  have h := and_wordXkk g 0xF#4 x kk 0xFF#8
  rw [and_allOnes4, show kk &&& 0xFF#8 = kk by simpa using BitVec.and_allOnes (x := kk)] at h
  exact h

/-- Mask 0xF000 leaves the group of a word `gxyn`. -/
theorem group_wordXyn (g : Nibble) (x y : Reg) (n : Nibble) : wordXyn g x y n &&& (0xF000 : Word) = wordXkk g 0 0 :=
  group_wordXkk g x _

/-- The low nibble of a word `gxyn` is `n`. -/
theorem lowNibble_wordXyn (g : Nibble) (x y : Reg) (n : Nibble) :
    wordXyn g x y n &&& (0xF00F : Word) = wordXkk g 0 (0#4 ++ n) := by
  rw [wordXyn, lowNibble_wordXkk]
  congr 1
  revert y n; decide

/-! ### No word matches two rows -/

/-- Two rows exclude each other in a decoder mode: they fix a common bit differently. -/
def rowsExclude (strict : Bool) (r r' : Row) : Bool :=
  if strict then r.strictMask &&& r'.strictMask &&& (r.strictPattern ^^^ r'.strictPattern) != 0
  else r.mask &&& r'.mask &&& (r.pattern ^^^ r'.pattern) != 0

/-- "In both decoder modes the rows are disjoint" (R85). -/
theorem opcodeRows_disjoint (strict : Bool) : opcodeRows.Pairwise (fun r r' => rowsExclude strict r r' = true) := by
  cases strict <;> decide

theorem rows_disagree (w m m' p p' : Word) (h : w &&& m = p) (h' : w &&& m' = p') : m &&& m' &&& (p ^^^ p') = 0#16 := by
  subst h h'
  refine BitVec.eq_of_getLsbD_eq fun i _ => ?_
  simp only [BitVec.getLsbD_and, BitVec.getLsbD_xor, BitVec.getLsbD_zero]
  cases w.getLsbD i <;> cases m.getLsbD i <;> cases m'.getLsbD i <;> rfl

/-- No word matches two rows that exclude each other. -/
theorem rowsExclude_spec (strict : Bool) (w : Word) (r r' : Row) (h : rowsExclude strict r r' = true)
    (hr : rowAdmits strict w r = true) : rowAdmits strict w r' = false := by
  by_contra hr'
  simp only [Bool.not_eq_false] at hr'
  cases strict <;>
    simp only [rowsExclude, rowAdmits, Bool.false_eq_true, if_false, if_true, bne_iff_ne, beq_iff_eq, ne_eq] at h hr hr' <;>
    exact h (rows_disagree w _ _ _ _ hr hr')

/-- The first row of a pairwise exclusive list that matches is the only one, so finding it needs no order. -/
theorem find_of_admits (strict : Bool) (w : Word) (r : Row) (rows : List Row)
    (hp : rows.Pairwise fun r r' => rowsExclude strict r r' = true) (hm : r ∈ rows) (hr : rowAdmits strict w r = true) :
    rows.find? (rowAdmits strict w) = some r := by
  induction rows with
  | nil => cases hm
  | cons q rows ih =>
    have ⟨hq, hp'⟩ := List.pairwise_cons.1 hp
    rcases List.mem_cons.1 hm with rfl | hm
    · exact List.find?_cons_of_pos hr
    · have hqw : rowAdmits strict w q = false := by
        by_contra hc
        have := rowsExclude_spec strict w q r (hq r hm) (by simpa using hc)
        rw [hr] at this; cases this
      rw [List.find?_cons_of_neg (by simp [hqw])]
      exact ih hp' hm

/-- A word that a row of the table admits decodes to what the row builds. -/
theorem decode_of_row (strict : Bool) (w : Word) (r : Row) (hm : r ∈ opcodeRows) (hr : rowAdmits strict w r = true) :
    decode strict w = .known (r.build w) := by
  rw [decode, find_of_admits strict w r opcodeRows (opcodeRows_disjoint strict) hm hr]

/-- A word decodes to an instruction exactly when some row admits it and builds that instruction. -/
theorem decode_known_iff (strict : Bool) (w : Word) (i : Instr) :
    decode strict w = .known i ↔ ∃ r ∈ opcodeRows, rowAdmits strict w r = true ∧ r.build w = i := by
  constructor
  · intro h
    unfold decode at h
    split at h
    · rename_i r hr
      exact ⟨r, List.mem_of_find?_eq_some hr, by simpa using List.find?_some hr, by cases h; rfl⟩
    · cases h
  · rintro ⟨r, hm, hr, rfl⟩
    exact decode_of_row strict w r hm hr

/-- A word is unknown exactly when no row admits it (R87). -/
theorem decode_unknown_iff (strict : Bool) (w : Word) :
    decode strict w = .unknown w ↔ ∀ r ∈ opcodeRows, rowAdmits strict w r = false := by
  unfold decode
  split
  · rename_i r hr
    simp only [reduceCtorEq, false_iff]
    intro h
    have h1 := h r (List.mem_of_find?_eq_some hr)
    have h2 := List.find?_some hr
    rw [h1] at h2; cases h2
  · rename_i hr
    simpa using hr

/-- Every word is its group, its `x` and its `kk`. -/
theorem wordXkk_fields (w : Word) : wordXkk (w.extractLsb' 12 4) (fieldX w) (fieldKk w) = w := by
  have hx : regBits (fieldX w) = w.extractLsb' 8 4 := by
    refine BitVec.eq_of_toNat_eq ?_
    have := (w.extractLsb' 8 4).isLt
    simp only [regBits, fieldX, BitVec.toNat_ofNat, BitVec.val_toFin]
    omega
  refine BitVec.eq_of_getLsbD_eq fun i hi => ?_
  simp only [getLsbD_wordXkk, hx, fieldKk, BitVec.getLsbD_extractLsb']
  split
  · simp [*]
  · split
    · rw [decide_eq_true (by omega), Bool.true_and, show 8 + (i - 8) = i by omega]
    · rw [decide_eq_true (by omega), Bool.true_and, show 12 + (i - 12) = i by omega]

/-- Every word is its group and its `nnn`. -/
theorem wordNnn_fields (w : Word) : wordNnn (w.extractLsb' 12 4) (fieldNnn w) = w := by
  refine BitVec.eq_of_getLsbD_eq fun i hi => ?_
  simp only [getLsbD_wordNnn, fieldNnn, BitVec.getLsbD_extractLsb']
  split
  · simp [*]
  · rw [decide_eq_true (by omega), Bool.true_and, show 12 + (i - 12) = i by omega]

end Sys2Proof
end

