-- ==== Sys2Proof/Laws/Display.lean ====
section
/-! SUPPORT. The laws of the framebuffer: what one toggle leaves at every pixel, where a sprite
pixel is drawn, and what a whole sprite leaves at every pixel and notes as a collision. -/

namespace Sys2Proof.Machine

theorem pixelAt_clearFb (x : Fin 64) (y : Fin 32) : pixelAt clearFb x y = false := by
  simp [pixelAt, clearFb]

theorem pixelAt_ext {fb fb' : Framebuffer} (h : ∀ x y, pixelAt fb x y = pixelAt fb' x y) : fb = fb' := by
  refine Vector.ext fun y hy => Vector.ext fun x hx => ?_
  exact h ⟨x, hx⟩ ⟨y, hy⟩

/-- A toggle inverts its pixel and leaves every other pixel alone. -/
theorem pixelAt_togglePixel (fb : Framebuffer) (x x' : Fin 64) (y y' : Fin 32) :
    pixelAt (togglePixel fb x y) x' y' = (pixelAt fb x' y' ^^ decide (x = x' ∧ y = y')) := by
  simp only [pixelAt, togglePixel, Fin.getElem_fin, Vector.getElem_set, Fin.ext_iff]
  by_cases hy : y.val = y'.val
  · by_cases hx : x.val = x'.val
    · simp [hx, hy]
    · simp [hx, hy]
  · simp [hy]

/-- Where clipping draws: on screen the pixel itself, off screen nowhere (R115). -/
theorem spriteTarget_clip (px py : Nat) (x : Fin 64) (y : Fin 32) :
    spriteTarget .clip px py = some (x, y) ↔ px = x.val ∧ py = y.val := by
  simp only [spriteTarget]
  split
  · simp only [Option.some.injEq, Prod.mk.injEq, Fin.ext_iff]
  · rename_i h
    simp only [reduceCtorEq, false_iff]
    rintro ⟨rfl, rfl⟩
    exact h ⟨x.isLt, y.isLt⟩

/-- Where wrapping draws: at the coordinates modulo the frame (R115). -/
theorem spriteTarget_wrap (px py : Nat) (x : Fin 64) (y : Fin 32) :
    spriteTarget .wrap px py = some (x, y) ↔ px % 64 = x.val ∧ py % 32 = y.val := by
  simp only [spriteTarget, Option.some.injEq, Prod.mk.injEq, Fin.ext_iff, Fin.val_ofNat]

/-! ### Sprites -/

/-- Two sprite bits within 8 columns and 32 rows of each other never land on one pixel (R115). -/
theorem spriteTarget_inj (edge : SpriteEdge) (x0 y0 c c' r r' : Nat) (p : Fin 64 × Fin 32) (hc : c < 8) (hc' : c' < 8)
    (hr : r < 32) (hr' : r' < 32) (h : spriteTarget edge (x0 + c) (y0 + r) = some p)
    (h' : spriteTarget edge (x0 + c') (y0 + r') = some p) : c = c' ∧ r = r' := by
  obtain ⟨x, y⟩ := p
  cases edge
  · rw [spriteTarget_clip] at h h'; omega
  · rw [spriteTarget_wrap] at h h'; omega

/-- Whether some set bit of the row, at a column of the list, lands on a pixel. -/
def rowHits (edge : SpriteEdge) (x0 py : Nat) (row : Byte) (cs : List Nat) (x : Fin 64) (y : Fin 32) : Prop :=
  ∃ c ∈ cs, row.getLsbD (7 - c) = true ∧ spriteTarget edge (x0 + c) py = some (x, y)

/-- One set bit: its pixel is inverted, and a collision is noted when it was on. -/
theorem drawSetBit_spec (edge : SpriteEdge) (px py : Nat) (acc : Framebuffer × Bool) :
    (∀ x y, pixelAt (drawSetBit edge px py acc).1 x y =
      (pixelAt acc.1 x y ^^ decide (spriteTarget edge px py = some (x, y)))) ∧
    ((drawSetBit edge px py acc).2 = true ↔
      acc.2 = true ∨ ∃ x y, spriteTarget edge px py = some (x, y) ∧ pixelAt acc.1 x y = true) := by
  unfold drawSetBit
  split
  · rename_i x y h
    refine ⟨fun x' y' => ?_, ?_⟩
    · simp only [pixelAt_togglePixel, h, Option.some.injEq, Prod.mk.injEq]
    · simp [h]
  · rename_i h
    simp [h]

open Classical in
/-- The columns of one row: exactly the pixels hit are inverted, and a collision is noted when one of them was on. -/
theorem drawColumns_spec (edge : SpriteEdge) (x0 py : Nat) (row : Byte) (cs : List Nat) (hn : cs.Nodup)
    (hc : ∀ c ∈ cs, c < 8) (acc : Framebuffer × Bool) :
    (∀ x y, pixelAt (drawColumns edge x0 py row cs acc).1 x y =
      (pixelAt acc.1 x y ^^ decide (rowHits edge x0 py row cs x y))) ∧
    ((drawColumns edge x0 py row cs acc).2 = true ↔
      acc.2 = true ∨ ∃ x y, rowHits edge x0 py row cs x y ∧ pixelAt acc.1 x y = true) := by
  induction cs generalizing acc with
  | nil => simp [drawColumns, rowHits]
  | cons c cs ih =>
    have ⟨hcn, hn'⟩ := List.nodup_cons.1 hn
    have hcons : ∀ x y, rowHits edge x0 py row (c :: cs) x y ↔
        (row.getLsbD (7 - c) = true ∧ spriteTarget edge (x0 + c) py = some (x, y)) ∨ rowHits edge x0 py row cs x y := by
      intro x y; simp [rowHits]
    have hdis : ∀ x y, spriteTarget edge (x0 + c) py = some (x, y) → ¬rowHits edge x0 py row cs x y := by
      rintro x y h ⟨c', hc', _, h'⟩
      have := spriteTarget_inj edge x0 py c c' 0 0 (x, y) (hc c List.mem_cons_self) (hc c' (List.mem_cons_of_mem _ hc'))
        (by omega) (by omega) h h'
      exact hcn (this.1 ▸ hc')
    simp only [drawColumns]
    have ⟨ih1, ih2⟩ := ih hn' (fun c' h => hc c' (List.mem_cons_of_mem _ h))
      (if row.getLsbD (7 - c) then drawSetBit edge (x0 + c) py acc else acc)
    by_cases hb : row.getLsbD (7 - c) = true
    · simp only [hb, if_true] at ih1 ih2 ⊢
      have ⟨s1, s2⟩ := drawSetBit_spec edge (x0 + c) py acc
      refine ⟨fun x y => ?_, ?_⟩
      · rw [ih1, s1]
        by_cases ht : spriteTarget edge (x0 + c) py = some (x, y)
        · simp [hcons, hb, ht, hdis x y ht]
        · simp [hcons, ht]
      · rw [ih2, s2]
        constructor
        · rintro ((h | ⟨x, y, h1, h2⟩) | ⟨x, y, h1, h2⟩)
          · exact .inl h
          · exact .inr ⟨x, y, (hcons x y).2 (.inl ⟨hb, h1⟩), h2⟩
          · refine .inr ⟨x, y, (hcons x y).2 (.inr h1), ?_⟩
            rw [s1, decide_eq_false (fun h => hdis x y h h1)] at h2
            simpa using h2
        · rintro (h | ⟨x, y, h1, h2⟩)
          · exact .inl (.inl h)
          · rcases (hcons x y).1 h1 with h1 | h1
            · exact .inl (.inr ⟨x, y, h1.2, h2⟩)
            · refine .inr ⟨x, y, h1, ?_⟩
              rw [s1, decide_eq_false (fun h => hdis x y h h1)]
              simpa using h2
    · simp only [hb] at ih1 ih2 ⊢
      simp only [hcons, hb, false_and, false_or, Bool.false_eq_true, if_false] at ih1 ih2 ⊢
      exact ⟨ih1, ih2⟩

/-- Whether some set bit of the sprite's rows, the first at row `y0 + r0`, lands on a pixel. -/
def spriteHits (edge : SpriteEdge) (x0 y0 : Nat) (rows : List Byte) (x : Fin 64) (y : Fin 32) : Prop :=
  ∃ r row, rows[r]? = some row ∧ ∃ c < 8, row.getLsbD (7 - c) = true ∧ spriteTarget edge (x0 + c) (y0 + r) = some (x, y)

open Classical in
/-- A whole sprite of at most 32 rows: exactly the pixels it hits are inverted, and a collision is noted when one of them was
on (40_display.md R113, R114). -/
theorem drawRows_spec (edge : SpriteEdge) (x0 y0 : Nat) (rows : List Byte) (hl : rows.length ≤ 32)
    (acc : Framebuffer × Bool) :
    (∀ x y, pixelAt (drawRows edge x0 y0 rows acc).1 x y =
      (pixelAt acc.1 x y ^^ decide (spriteHits edge x0 y0 rows x y))) ∧
    ((drawRows edge x0 y0 rows acc).2 = true ↔
      acc.2 = true ∨ ∃ x y, spriteHits edge x0 y0 rows x y ∧ pixelAt acc.1 x y = true) := by
  induction rows generalizing y0 acc with
  | nil => simp [drawRows, spriteHits]
  | cons row rows ih =>
    simp only [List.length_cons] at hl
    have hcol : ∀ c, c ∈ [0, 1, 2, 3, 4, 5, 6, 7] ↔ c < 8 := by intro c; simp only [List.mem_cons, List.not_mem_nil, or_false]; omega
    have hcons : ∀ x y, spriteHits edge x0 y0 (row :: rows) x y ↔
        rowHits edge x0 y0 row [0, 1, 2, 3, 4, 5, 6, 7] x y ∨ spriteHits edge x0 (y0 + 1) rows x y := by
      intro x y
      constructor
      · rintro ⟨r, b, hr, c, hc, hb, ht⟩
        cases r with
        | zero => cases hr; exact .inl ⟨c, (hcol c).2 hc, hb, ht⟩
        | succ r => exact .inr ⟨r, b, by simpa using hr, c, hc, hb, by rwa [show y0 + 1 + r = y0 + (r + 1) by omega]⟩
      · rintro (⟨c, hc, hb, ht⟩ | ⟨r, b, hr, c, hc, hb, ht⟩)
        · exact ⟨0, row, rfl, c, (hcol c).1 hc, hb, ht⟩
        · exact ⟨r + 1, b, by simpa using hr, c, hc, hb, by rwa [show y0 + (r + 1) = y0 + 1 + r by omega]⟩
    have hdis : ∀ x y, rowHits edge x0 y0 row [0, 1, 2, 3, 4, 5, 6, 7] x y → ¬spriteHits edge x0 (y0 + 1) rows x y := by
      rintro x y ⟨c, hc, _, h⟩ ⟨r, b, hr, c', hc', _, h'⟩
      have hlt : r < rows.length := (List.getElem?_eq_some_iff.1 hr).1
      have := spriteTarget_inj edge x0 y0 c c' 0 (r + 1) (x, y) ((hcol c).1 hc) hc' (by omega) (by omega) h
        (by rwa [show y0 + (r + 1) = y0 + 1 + r by omega])
      omega
    have ⟨s1, s2⟩ := drawColumns_spec edge x0 y0 row [0, 1, 2, 3, 4, 5, 6, 7] (by decide) (fun c h => (hcol c).1 h) acc
    have ⟨ih1, ih2⟩ := ih (y0 + 1) (by omega) (drawRow edge x0 y0 row acc)
    simp only [drawRows]
    refine ⟨fun x y => ?_, ?_⟩
    · rw [ih1, drawRow, s1]
      by_cases ht : rowHits edge x0 y0 row [0, 1, 2, 3, 4, 5, 6, 7] x y
      · simp [hcons, ht, hdis x y ht]
      · simp [hcons, ht]
    · rw [ih2, drawRow, s2]
      constructor
      · rintro ((h | ⟨x, y, h1, h2⟩) | ⟨x, y, h1, h2⟩)
        · exact .inl h
        · exact .inr ⟨x, y, (hcons x y).2 (.inl h1), h2⟩
        · refine .inr ⟨x, y, (hcons x y).2 (.inr h1), ?_⟩
          rw [s1, decide_eq_false (fun h => hdis x y h h1)] at h2
          simpa using h2
      · rintro (h | ⟨x, y, h1, h2⟩)
        · exact .inl (.inl h)
        · rcases (hcons x y).1 h1 with h1 | h1
          · exact .inl (.inr ⟨x, y, h1, h2⟩)
          · refine .inr ⟨x, y, h1, ?_⟩
            rw [s1, decide_eq_false (fun h => hdis x y h h1)]
            simpa using h2

/-- The same without a decision: a pixel the sprite hits is inverted, every other pixel stays. -/
theorem drawRows_pixel (edge : SpriteEdge) (x0 y0 : Nat) (rows : List Byte) (hl : rows.length ≤ 32)
    (acc : Framebuffer × Bool) (x : Fin 64) (y : Fin 32) :
    (spriteHits edge x0 y0 rows x y → pixelAt (drawRows edge x0 y0 rows acc).1 x y = !pixelAt acc.1 x y) ∧
      (¬spriteHits edge x0 y0 rows x y → pixelAt (drawRows edge x0 y0 rows acc).1 x y = pixelAt acc.1 x y) := by
  have h := (drawRows_spec edge x0 y0 rows hl acc).1 x y
  exact ⟨fun hh => by rw [h]; simp [hh], fun hh => by rw [h]; simp [hh]⟩

end Sys2Proof.Machine
end

