-- ==== Sys2Proof/Laws/Memory.lean ====
section
/-! SUPPORT. The laws of memory: a read after a write, at the same address and at another; every operation keeps the
canonical form; what a ROM copy reads as. -/

namespace Sys2Proof.Machine

/-! ### Read after write -/

theorem Memory.lookup_put (m : Memory) (a a' : Nat) (b : Byte) :
    (m.put a b).lookup a' = if a = a' then some b else m.lookup a' := by
  induction m with
  | nil => simp [Memory.put, Memory.lookup]
  | cons p m ih =>
    obtain ⟨k, c⟩ := p
    simp only [Memory.put]
    split
    · simp [Memory.lookup]
    · split
      · subst_vars; simp [Memory.lookup]; split <;> simp_all
      · simp only [Memory.lookup, ih]; split <;> split <;> simp_all

theorem Memory.lookup_erase (m : Memory) (a a' : Nat) :
    (m.erase a).lookup a' = if a = a' then none else m.lookup a' := by
  induction m with
  | nil => simp [Memory.erase, Memory.lookup]
  | cons p m ih =>
    obtain ⟨k, c⟩ := p
    simp only [Memory.erase, Memory.lookup]
    split
    · subst_vars; rw [ih]; split <;> rfl
    · simp only [Memory.lookup, ih]; split <;> split <;> simp_all

/-- A read after a write gives the byte written, and every other address reads as before. -/
theorem Memory.read_write (cfg : Config) (m : Memory) (a a' : Nat) (b : Byte) :
    (m.write cfg a b).read cfg a' = if a = a' then b else m.read cfg a' := by
  unfold Memory.write
  split
  · unfold Memory.read; rw [Memory.lookup_erase]; split <;> simp_all
  · unfold Memory.read; rw [Memory.lookup_put]; split <;> simp

/-! ### The canonical form -/

theorem Memory.wf_iff (cfg : Config) (m : Memory) :
    m.wf cfg = true ↔ m.Pairwise (fun p q => p.1 < q.1) ∧ ∀ p ∈ m, p.1 < memSize ∧ p.2 ≠ unlisted cfg p.1 := by
  simp [Memory.wf, List.all_eq_true]

theorem Memory.wf_nil (cfg : Config) : Memory.wf cfg [] = true := by simp [Memory.wf]

theorem Memory.mem_erase (m : Memory) (a : Nat) (p : Host.Cell) (h : p ∈ m.erase a) : p ∈ m := by
  induction m with
  | nil => exact h
  | cons q m ih =>
    obtain ⟨k, c⟩ := q
    simp only [Memory.erase] at h
    split at h
    · exact List.mem_cons_of_mem _ (ih h)
    · rcases List.mem_cons.1 h with rfl | h
      · exact List.mem_cons_self
      · exact List.mem_cons_of_mem _ (ih h)

theorem Memory.mem_put (m : Memory) (a : Nat) (b : Byte) (p : Host.Cell) (h : p ∈ m.put a b) : p = (a, b) ∨ p ∈ m := by
  induction m with
  | nil => exact .inl (by simpa [Memory.put] using h)
  | cons q m ih =>
    obtain ⟨k, c⟩ := q
    simp only [Memory.put] at h
    split at h
    · exact (List.mem_cons.1 h).imp id id
    · split at h
      · exact (List.mem_cons.1 h).imp id (List.mem_cons_of_mem _)
      · rcases List.mem_cons.1 h with rfl | h
        · exact .inr List.mem_cons_self
        · exact (ih h).imp id (List.mem_cons_of_mem _)

theorem Memory.sorted_erase (m : Memory) (a : Nat) (h : m.Pairwise fun p q => p.1 < q.1) :
    (m.erase a).Pairwise fun p q => p.1 < q.1 := by
  induction m with
  | nil => exact h
  | cons q m ih =>
    obtain ⟨k, c⟩ := q
    have ⟨hk, hm⟩ := List.pairwise_cons.1 h
    simp only [Memory.erase]
    split
    · exact ih hm
    · exact List.pairwise_cons.2 ⟨fun p hp => hk p (Memory.mem_erase m a p hp), ih hm⟩

theorem Memory.sorted_put (m : Memory) (a : Nat) (b : Byte) (h : m.Pairwise fun p q => p.1 < q.1) :
    (m.put a b).Pairwise fun p q => p.1 < q.1 := by
  induction m with
  | nil => simp [Memory.put]
  | cons q m ih =>
    obtain ⟨k, c⟩ := q
    have ⟨hk, hm⟩ := List.pairwise_cons.1 h
    simp only [Memory.put]
    split
    · rename_i ha
      refine List.pairwise_cons.2 ⟨fun p hp => ?_, h⟩
      rcases List.mem_cons.1 hp with rfl | hp
      · exact ha
      · exact Nat.lt_trans ha (hk p hp)
    · split
      · subst_vars; exact List.pairwise_cons.2 ⟨hk, hm⟩
      · refine List.pairwise_cons.2 ⟨fun p hp => ?_, ih hm⟩
        rcases Memory.mem_put m a b p hp with rfl | hp
        · show k < a; omega
        · exact hk p hp

/-- Every write in bounds keeps the canonical form. -/
theorem Memory.wf_write (cfg : Config) (m : Memory) (a : Nat) (b : Byte) (ha : a < memSize) (h : m.wf cfg = true) :
    (m.write cfg a b).wf cfg = true := by
  rw [Memory.wf_iff] at h ⊢
  unfold Memory.write
  split
  · exact ⟨Memory.sorted_erase m a h.1, fun p hp => h.2 p (Memory.mem_erase m a p hp)⟩
  · rename_i hb
    refine ⟨Memory.sorted_put m a b h.1, fun p hp => ?_⟩
    rcases Memory.mem_put m a b p hp with rfl | hp
    · exact ⟨ha, hb⟩
    · exact h.2 p hp

/-! ### The ROM copy -/

theorem Memory.mem_ofBytes (cfg : Config) (a : Nat) (bs : List Byte) (p : Host.Cell) (h : p ∈ Memory.ofBytes cfg a bs) :
    a ≤ p.1 ∧ p.1 < a + bs.length ∧ p.2 ≠ unlisted cfg p.1 := by
  induction bs generalizing a with
  | nil => simp [Memory.ofBytes] at h
  | cons b bs ih =>
    simp only [Memory.ofBytes] at h
    simp only [List.length_cons]
    split at h
    · have := ih (a + 1) h; exact ⟨by omega, by omega, this.2.2⟩
    · rcases List.mem_cons.1 h with rfl | h
      · exact ⟨le_rfl, by show a < _; omega, by assumption⟩
      · have := ih (a + 1) h; exact ⟨by omega, by omega, this.2.2⟩

/-- A copy that fits is in canonical form. -/
theorem Memory.wf_ofBytes (cfg : Config) (a : Nat) (bs : List Byte) (h : a + bs.length ≤ memSize) :
    (Memory.ofBytes cfg a bs).wf cfg = true := by
  rw [Memory.wf_iff]
  refine ⟨?_, fun p hp => ?_⟩
  · clear h
    induction bs generalizing a with
    | nil => exact List.Pairwise.nil
    | cons b bs ih =>
      simp only [Memory.ofBytes]
      split
      · exact ih _
      · exact List.pairwise_cons.2 ⟨fun p hp => (Memory.mem_ofBytes cfg _ bs p hp).1, ih _⟩
  · have := Memory.mem_ofBytes cfg a bs p hp
    exact ⟨by omega, this.2.2⟩

/-- What a copy reads as: the bytes where they lie, reset contents elsewhere. -/
theorem Memory.read_ofBytes (cfg : Config) (a : Nat) (bs : List Byte) (a' : Nat) :
    (Memory.ofBytes cfg a bs).read cfg a' =
      if a ≤ a' ∧ a' < a + bs.length then (bs[a' - a]?).getD 0 else unlisted cfg a' := by
  induction bs generalizing a with
  | nil => simp only [Memory.ofBytes, Memory.read, Memory.lookup, List.length_nil]; rw [if_neg (by omega)]; rfl
  | cons b bs ih =>
    have step : (Memory.ofBytes cfg a (b :: bs)).read cfg a' =
        if a = a' then b else (Memory.ofBytes cfg (a + 1) bs).read cfg a' := by
      simp only [Memory.ofBytes]
      by_cases hb : b = unlisted cfg a
      · rw [if_pos hb]
        split
        · subst_vars; rw [ih, if_neg (by omega)]
        · rfl
      · rw [if_neg hb]
        simp only [Memory.read, Memory.lookup]
        split <;> simp
    rw [step, ih]
    simp only [List.length_cons]
    by_cases h1 : a = a'
    · subst h1; simp
    · rw [if_neg h1]
      by_cases h2 : a + 1 ≤ a' ∧ a' < a + 1 + bs.length
      · rw [if_pos h2, if_pos (by omega), show a' - a = (a' - (a + 1)) + 1 by omega]; simp
      · rw [if_neg h2, if_neg (by omega)]

end Sys2Proof.Machine
end

