-- ==== Sys2Proof/Laws/State.lean ====
section
/-! SUPPORT. One lemma per field per update of State, so that no later proof unfolds a record update. -/

namespace Sys2Proof.Machine

/-! ### `setReg` -/

@[simp] theorem State.setReg_v (s : State) (x : Reg) (b : Byte) : (s.setReg x b).v = s.v.set x b := rfl
@[simp] theorem State.setReg_index (s : State) (x : Reg) (b : Byte) : (s.setReg x b).index = s.index := rfl
@[simp] theorem State.setReg_pc (s : State) (x : Reg) (b : Byte) : (s.setReg x b).pc = s.pc := rfl
@[simp] theorem State.setReg_sp (s : State) (x : Reg) (b : Byte) : (s.setReg x b).sp = s.sp := rfl
@[simp] theorem State.setReg_stack (s : State) (x : Reg) (b : Byte) : (s.setReg x b).stack = s.stack := rfl
@[simp] theorem State.setReg_dt (s : State) (x : Reg) (b : Byte) : (s.setReg x b).dt = s.dt := rfl
@[simp] theorem State.setReg_st (s : State) (x : Reg) (b : Byte) : (s.setReg x b).st = s.st := rfl
@[simp] theorem State.setReg_keyState (s : State) (x : Reg) (b : Byte) : (s.setReg x b).keyState = s.keyState := rfl
@[simp] theorem State.setReg_keys (s : State) (x : Reg) (b : Byte) : (s.setReg x b).keys = s.keys := rfl
@[simp] theorem State.setReg_fb (s : State) (x : Reg) (b : Byte) : (s.setReg x b).fb = s.fb := rfl
@[simp] theorem State.setReg_dirty (s : State) (x : Reg) (b : Byte) : (s.setReg x b).dirty = s.dirty := rfl
@[simp] theorem State.setReg_mem (s : State) (x : Reg) (b : Byte) : (s.setReg x b).mem = s.mem := rfl
@[simp] theorem State.setReg_status (s : State) (x : Reg) (b : Byte) : (s.setReg x b).status = s.status := rfl
@[simp] theorem State.setReg_faultCode (s : State) (x : Reg) (b : Byte) : (s.setReg x b).faultCode = s.faultCode := rfl
@[simp] theorem State.setReg_faultPc (s : State) (x : Reg) (b : Byte) : (s.setReg x b).faultPc = s.faultPc := rfl
@[simp] theorem State.setReg_faultWord (s : State) (x : Reg) (b : Byte) : (s.setReg x b).faultWord = s.faultWord := rfl
@[simp] theorem State.setReg_cfg (s : State) (x : Reg) (b : Byte) : (s.setReg x b).cfg = s.cfg := rfl
@[simp] theorem State.setReg_agenda (s : State) (x : Reg) (b : Byte) : (s.setReg x b).agenda = s.agenda := rfl
@[simp] theorem State.setReg_reply (s : State) (x : Reg) (b : Byte) : (s.setReg x b).reply = s.reply := rfl
@[simp] theorem State.setReg_draws (s : State) (x : Reg) (b : Byte) : (s.setReg x b).draws = s.draws := rfl

/-! ### `setRegFlag` -/

@[simp] theorem State.setRegFlag_v (s : State) (x : Reg) (b c : Byte) : (s.setRegFlag x b c).v = (s.v.set x b).set 15 c := rfl
@[simp] theorem State.setRegFlag_index (s : State) (x : Reg) (b c : Byte) : (s.setRegFlag x b c).index = s.index := rfl
@[simp] theorem State.setRegFlag_pc (s : State) (x : Reg) (b c : Byte) : (s.setRegFlag x b c).pc = s.pc := rfl
@[simp] theorem State.setRegFlag_sp (s : State) (x : Reg) (b c : Byte) : (s.setRegFlag x b c).sp = s.sp := rfl
@[simp] theorem State.setRegFlag_stack (s : State) (x : Reg) (b c : Byte) : (s.setRegFlag x b c).stack = s.stack := rfl
@[simp] theorem State.setRegFlag_dt (s : State) (x : Reg) (b c : Byte) : (s.setRegFlag x b c).dt = s.dt := rfl
@[simp] theorem State.setRegFlag_st (s : State) (x : Reg) (b c : Byte) : (s.setRegFlag x b c).st = s.st := rfl
@[simp] theorem State.setRegFlag_keyState (s : State) (x : Reg) (b c : Byte) : (s.setRegFlag x b c).keyState = s.keyState := rfl
@[simp] theorem State.setRegFlag_keys (s : State) (x : Reg) (b c : Byte) : (s.setRegFlag x b c).keys = s.keys := rfl
@[simp] theorem State.setRegFlag_fb (s : State) (x : Reg) (b c : Byte) : (s.setRegFlag x b c).fb = s.fb := rfl
@[simp] theorem State.setRegFlag_dirty (s : State) (x : Reg) (b c : Byte) : (s.setRegFlag x b c).dirty = s.dirty := rfl
@[simp] theorem State.setRegFlag_mem (s : State) (x : Reg) (b c : Byte) : (s.setRegFlag x b c).mem = s.mem := rfl
@[simp] theorem State.setRegFlag_status (s : State) (x : Reg) (b c : Byte) : (s.setRegFlag x b c).status = s.status := rfl
@[simp] theorem State.setRegFlag_faultCode (s : State) (x : Reg) (b c : Byte) : (s.setRegFlag x b c).faultCode = s.faultCode := rfl
@[simp] theorem State.setRegFlag_faultPc (s : State) (x : Reg) (b c : Byte) : (s.setRegFlag x b c).faultPc = s.faultPc := rfl
@[simp] theorem State.setRegFlag_faultWord (s : State) (x : Reg) (b c : Byte) : (s.setRegFlag x b c).faultWord = s.faultWord := rfl
@[simp] theorem State.setRegFlag_cfg (s : State) (x : Reg) (b c : Byte) : (s.setRegFlag x b c).cfg = s.cfg := rfl
@[simp] theorem State.setRegFlag_agenda (s : State) (x : Reg) (b c : Byte) : (s.setRegFlag x b c).agenda = s.agenda := rfl
@[simp] theorem State.setRegFlag_reply (s : State) (x : Reg) (b c : Byte) : (s.setRegFlag x b c).reply = s.reply := rfl
@[simp] theorem State.setRegFlag_draws (s : State) (x : Reg) (b c : Byte) : (s.setRegFlag x b c).draws = s.draws := rfl

/-! ### `setRegs` -/

@[simp] theorem State.setRegs_v (s : State) (bs : List Byte) : (s.setRegs bs).v = loadRegsFrom 0 bs s.v := rfl
@[simp] theorem State.setRegs_index (s : State) (bs : List Byte) : (s.setRegs bs).index = s.index := rfl
@[simp] theorem State.setRegs_pc (s : State) (bs : List Byte) : (s.setRegs bs).pc = s.pc := rfl
@[simp] theorem State.setRegs_sp (s : State) (bs : List Byte) : (s.setRegs bs).sp = s.sp := rfl
@[simp] theorem State.setRegs_stack (s : State) (bs : List Byte) : (s.setRegs bs).stack = s.stack := rfl
@[simp] theorem State.setRegs_dt (s : State) (bs : List Byte) : (s.setRegs bs).dt = s.dt := rfl
@[simp] theorem State.setRegs_st (s : State) (bs : List Byte) : (s.setRegs bs).st = s.st := rfl
@[simp] theorem State.setRegs_keyState (s : State) (bs : List Byte) : (s.setRegs bs).keyState = s.keyState := rfl
@[simp] theorem State.setRegs_keys (s : State) (bs : List Byte) : (s.setRegs bs).keys = s.keys := rfl
@[simp] theorem State.setRegs_fb (s : State) (bs : List Byte) : (s.setRegs bs).fb = s.fb := rfl
@[simp] theorem State.setRegs_dirty (s : State) (bs : List Byte) : (s.setRegs bs).dirty = s.dirty := rfl
@[simp] theorem State.setRegs_mem (s : State) (bs : List Byte) : (s.setRegs bs).mem = s.mem := rfl
@[simp] theorem State.setRegs_status (s : State) (bs : List Byte) : (s.setRegs bs).status = s.status := rfl
@[simp] theorem State.setRegs_faultCode (s : State) (bs : List Byte) : (s.setRegs bs).faultCode = s.faultCode := rfl
@[simp] theorem State.setRegs_faultPc (s : State) (bs : List Byte) : (s.setRegs bs).faultPc = s.faultPc := rfl
@[simp] theorem State.setRegs_faultWord (s : State) (bs : List Byte) : (s.setRegs bs).faultWord = s.faultWord := rfl
@[simp] theorem State.setRegs_cfg (s : State) (bs : List Byte) : (s.setRegs bs).cfg = s.cfg := rfl
@[simp] theorem State.setRegs_agenda (s : State) (bs : List Byte) : (s.setRegs bs).agenda = s.agenda := rfl
@[simp] theorem State.setRegs_reply (s : State) (bs : List Byte) : (s.setRegs bs).reply = s.reply := rfl
@[simp] theorem State.setRegs_draws (s : State) (bs : List Byte) : (s.setRegs bs).draws = s.draws := rfl

/-! ### `setIndex` -/

@[simp] theorem State.setIndex_v (s : State) (w : Word) : (s.setIndex w).v = s.v := rfl
@[simp] theorem State.setIndex_index (s : State) (w : Word) : (s.setIndex w).index = w := rfl
@[simp] theorem State.setIndex_pc (s : State) (w : Word) : (s.setIndex w).pc = s.pc := rfl
@[simp] theorem State.setIndex_sp (s : State) (w : Word) : (s.setIndex w).sp = s.sp := rfl
@[simp] theorem State.setIndex_stack (s : State) (w : Word) : (s.setIndex w).stack = s.stack := rfl
@[simp] theorem State.setIndex_dt (s : State) (w : Word) : (s.setIndex w).dt = s.dt := rfl
@[simp] theorem State.setIndex_st (s : State) (w : Word) : (s.setIndex w).st = s.st := rfl
@[simp] theorem State.setIndex_keyState (s : State) (w : Word) : (s.setIndex w).keyState = s.keyState := rfl
@[simp] theorem State.setIndex_keys (s : State) (w : Word) : (s.setIndex w).keys = s.keys := rfl
@[simp] theorem State.setIndex_fb (s : State) (w : Word) : (s.setIndex w).fb = s.fb := rfl
@[simp] theorem State.setIndex_dirty (s : State) (w : Word) : (s.setIndex w).dirty = s.dirty := rfl
@[simp] theorem State.setIndex_mem (s : State) (w : Word) : (s.setIndex w).mem = s.mem := rfl
@[simp] theorem State.setIndex_status (s : State) (w : Word) : (s.setIndex w).status = s.status := rfl
@[simp] theorem State.setIndex_faultCode (s : State) (w : Word) : (s.setIndex w).faultCode = s.faultCode := rfl
@[simp] theorem State.setIndex_faultPc (s : State) (w : Word) : (s.setIndex w).faultPc = s.faultPc := rfl
@[simp] theorem State.setIndex_faultWord (s : State) (w : Word) : (s.setIndex w).faultWord = s.faultWord := rfl
@[simp] theorem State.setIndex_cfg (s : State) (w : Word) : (s.setIndex w).cfg = s.cfg := rfl
@[simp] theorem State.setIndex_agenda (s : State) (w : Word) : (s.setIndex w).agenda = s.agenda := rfl
@[simp] theorem State.setIndex_reply (s : State) (w : Word) : (s.setIndex w).reply = s.reply := rfl
@[simp] theorem State.setIndex_draws (s : State) (w : Word) : (s.setIndex w).draws = s.draws := rfl

/-! ### `setDt` -/

@[simp] theorem State.setDt_v (s : State) (b : Byte) : (s.setDt b).v = s.v := rfl
@[simp] theorem State.setDt_index (s : State) (b : Byte) : (s.setDt b).index = s.index := rfl
@[simp] theorem State.setDt_pc (s : State) (b : Byte) : (s.setDt b).pc = s.pc := rfl
@[simp] theorem State.setDt_sp (s : State) (b : Byte) : (s.setDt b).sp = s.sp := rfl
@[simp] theorem State.setDt_stack (s : State) (b : Byte) : (s.setDt b).stack = s.stack := rfl
@[simp] theorem State.setDt_dt (s : State) (b : Byte) : (s.setDt b).dt = b := rfl
@[simp] theorem State.setDt_st (s : State) (b : Byte) : (s.setDt b).st = s.st := rfl
@[simp] theorem State.setDt_keyState (s : State) (b : Byte) : (s.setDt b).keyState = s.keyState := rfl
@[simp] theorem State.setDt_keys (s : State) (b : Byte) : (s.setDt b).keys = s.keys := rfl
@[simp] theorem State.setDt_fb (s : State) (b : Byte) : (s.setDt b).fb = s.fb := rfl
@[simp] theorem State.setDt_dirty (s : State) (b : Byte) : (s.setDt b).dirty = s.dirty := rfl
@[simp] theorem State.setDt_mem (s : State) (b : Byte) : (s.setDt b).mem = s.mem := rfl
@[simp] theorem State.setDt_status (s : State) (b : Byte) : (s.setDt b).status = s.status := rfl
@[simp] theorem State.setDt_faultCode (s : State) (b : Byte) : (s.setDt b).faultCode = s.faultCode := rfl
@[simp] theorem State.setDt_faultPc (s : State) (b : Byte) : (s.setDt b).faultPc = s.faultPc := rfl
@[simp] theorem State.setDt_faultWord (s : State) (b : Byte) : (s.setDt b).faultWord = s.faultWord := rfl
@[simp] theorem State.setDt_cfg (s : State) (b : Byte) : (s.setDt b).cfg = s.cfg := rfl
@[simp] theorem State.setDt_agenda (s : State) (b : Byte) : (s.setDt b).agenda = s.agenda := rfl
@[simp] theorem State.setDt_reply (s : State) (b : Byte) : (s.setDt b).reply = s.reply := rfl
@[simp] theorem State.setDt_draws (s : State) (b : Byte) : (s.setDt b).draws = s.draws := rfl

/-! ### `setSt` -/

@[simp] theorem State.setSt_v (s : State) (b : Byte) : (s.setSt b).v = s.v := rfl
@[simp] theorem State.setSt_index (s : State) (b : Byte) : (s.setSt b).index = s.index := rfl
@[simp] theorem State.setSt_pc (s : State) (b : Byte) : (s.setSt b).pc = s.pc := rfl
@[simp] theorem State.setSt_sp (s : State) (b : Byte) : (s.setSt b).sp = s.sp := rfl
@[simp] theorem State.setSt_stack (s : State) (b : Byte) : (s.setSt b).stack = s.stack := rfl
@[simp] theorem State.setSt_dt (s : State) (b : Byte) : (s.setSt b).dt = s.dt := rfl
@[simp] theorem State.setSt_st (s : State) (b : Byte) : (s.setSt b).st = b := rfl
@[simp] theorem State.setSt_keyState (s : State) (b : Byte) : (s.setSt b).keyState = s.keyState := rfl
@[simp] theorem State.setSt_keys (s : State) (b : Byte) : (s.setSt b).keys = s.keys := rfl
@[simp] theorem State.setSt_fb (s : State) (b : Byte) : (s.setSt b).fb = s.fb := rfl
@[simp] theorem State.setSt_dirty (s : State) (b : Byte) : (s.setSt b).dirty = s.dirty := rfl
@[simp] theorem State.setSt_mem (s : State) (b : Byte) : (s.setSt b).mem = s.mem := rfl
@[simp] theorem State.setSt_status (s : State) (b : Byte) : (s.setSt b).status = s.status := rfl
@[simp] theorem State.setSt_faultCode (s : State) (b : Byte) : (s.setSt b).faultCode = s.faultCode := rfl
@[simp] theorem State.setSt_faultPc (s : State) (b : Byte) : (s.setSt b).faultPc = s.faultPc := rfl
@[simp] theorem State.setSt_faultWord (s : State) (b : Byte) : (s.setSt b).faultWord = s.faultWord := rfl
@[simp] theorem State.setSt_cfg (s : State) (b : Byte) : (s.setSt b).cfg = s.cfg := rfl
@[simp] theorem State.setSt_agenda (s : State) (b : Byte) : (s.setSt b).agenda = s.agenda := rfl
@[simp] theorem State.setSt_reply (s : State) (b : Byte) : (s.setSt b).reply = s.reply := rfl
@[simp] theorem State.setSt_draws (s : State) (b : Byte) : (s.setSt b).draws = s.draws := rfl

/-! ### `advance` -/

@[simp] theorem State.advance_v (s : State) : s.advance.v = s.v := rfl
@[simp] theorem State.advance_index (s : State) : s.advance.index = s.index := rfl
@[simp] theorem State.advance_pc (s : State) : s.advance.pc = s.pc + 2 := rfl
@[simp] theorem State.advance_sp (s : State) : s.advance.sp = s.sp := rfl
@[simp] theorem State.advance_stack (s : State) : s.advance.stack = s.stack := rfl
@[simp] theorem State.advance_dt (s : State) : s.advance.dt = s.dt := rfl
@[simp] theorem State.advance_st (s : State) : s.advance.st = s.st := rfl
@[simp] theorem State.advance_keyState (s : State) : s.advance.keyState = s.keyState := rfl
@[simp] theorem State.advance_keys (s : State) : s.advance.keys = s.keys := rfl
@[simp] theorem State.advance_fb (s : State) : s.advance.fb = s.fb := rfl
@[simp] theorem State.advance_dirty (s : State) : s.advance.dirty = s.dirty := rfl
@[simp] theorem State.advance_mem (s : State) : s.advance.mem = s.mem := rfl
@[simp] theorem State.advance_status (s : State) : s.advance.status = s.status := rfl
@[simp] theorem State.advance_faultCode (s : State) : s.advance.faultCode = s.faultCode := rfl
@[simp] theorem State.advance_faultPc (s : State) : s.advance.faultPc = s.faultPc := rfl
@[simp] theorem State.advance_faultWord (s : State) : s.advance.faultWord = s.faultWord := rfl
@[simp] theorem State.advance_cfg (s : State) : s.advance.cfg = s.cfg := rfl
@[simp] theorem State.advance_agenda (s : State) : s.advance.agenda = s.agenda := rfl
@[simp] theorem State.advance_reply (s : State) : s.advance.reply = s.reply := rfl
@[simp] theorem State.advance_draws (s : State) : s.advance.draws = s.draws := rfl

/-! ### `setPc` -/

@[simp] theorem State.setPc_v (s : State) (w : Word) : (s.setPc w).v = s.v := rfl
@[simp] theorem State.setPc_index (s : State) (w : Word) : (s.setPc w).index = s.index := rfl
@[simp] theorem State.setPc_pc (s : State) (w : Word) : (s.setPc w).pc = w := rfl
@[simp] theorem State.setPc_sp (s : State) (w : Word) : (s.setPc w).sp = s.sp := rfl
@[simp] theorem State.setPc_stack (s : State) (w : Word) : (s.setPc w).stack = s.stack := rfl
@[simp] theorem State.setPc_dt (s : State) (w : Word) : (s.setPc w).dt = s.dt := rfl
@[simp] theorem State.setPc_st (s : State) (w : Word) : (s.setPc w).st = s.st := rfl
@[simp] theorem State.setPc_keyState (s : State) (w : Word) : (s.setPc w).keyState = s.keyState := rfl
@[simp] theorem State.setPc_keys (s : State) (w : Word) : (s.setPc w).keys = s.keys := rfl
@[simp] theorem State.setPc_fb (s : State) (w : Word) : (s.setPc w).fb = s.fb := rfl
@[simp] theorem State.setPc_dirty (s : State) (w : Word) : (s.setPc w).dirty = s.dirty := rfl
@[simp] theorem State.setPc_mem (s : State) (w : Word) : (s.setPc w).mem = s.mem := rfl
@[simp] theorem State.setPc_status (s : State) (w : Word) : (s.setPc w).status = s.status := rfl
@[simp] theorem State.setPc_faultCode (s : State) (w : Word) : (s.setPc w).faultCode = s.faultCode := rfl
@[simp] theorem State.setPc_faultPc (s : State) (w : Word) : (s.setPc w).faultPc = s.faultPc := rfl
@[simp] theorem State.setPc_faultWord (s : State) (w : Word) : (s.setPc w).faultWord = s.faultWord := rfl
@[simp] theorem State.setPc_cfg (s : State) (w : Word) : (s.setPc w).cfg = s.cfg := rfl
@[simp] theorem State.setPc_agenda (s : State) (w : Word) : (s.setPc w).agenda = s.agenda := rfl
@[simp] theorem State.setPc_reply (s : State) (w : Word) : (s.setPc w).reply = s.reply := rfl
@[simp] theorem State.setPc_draws (s : State) (w : Word) : (s.setPc w).draws = s.draws := rfl

/-! ### `skipIf` -/

@[simp] theorem State.skipIf_v (s : State) (c : Bool) : (s.skipIf c).v = s.v := by cases c <;> rfl
@[simp] theorem State.skipIf_index (s : State) (c : Bool) : (s.skipIf c).index = s.index := by cases c <;> rfl
@[simp] theorem State.skipIf_pc (s : State) (c : Bool) : (s.skipIf c).pc = if c then s.pc + 2 else s.pc := by cases c <;> rfl
@[simp] theorem State.skipIf_sp (s : State) (c : Bool) : (s.skipIf c).sp = s.sp := by cases c <;> rfl
@[simp] theorem State.skipIf_stack (s : State) (c : Bool) : (s.skipIf c).stack = s.stack := by cases c <;> rfl
@[simp] theorem State.skipIf_dt (s : State) (c : Bool) : (s.skipIf c).dt = s.dt := by cases c <;> rfl
@[simp] theorem State.skipIf_st (s : State) (c : Bool) : (s.skipIf c).st = s.st := by cases c <;> rfl
@[simp] theorem State.skipIf_keyState (s : State) (c : Bool) : (s.skipIf c).keyState = s.keyState := by cases c <;> rfl
@[simp] theorem State.skipIf_keys (s : State) (c : Bool) : (s.skipIf c).keys = s.keys := by cases c <;> rfl
@[simp] theorem State.skipIf_fb (s : State) (c : Bool) : (s.skipIf c).fb = s.fb := by cases c <;> rfl
@[simp] theorem State.skipIf_dirty (s : State) (c : Bool) : (s.skipIf c).dirty = s.dirty := by cases c <;> rfl
@[simp] theorem State.skipIf_mem (s : State) (c : Bool) : (s.skipIf c).mem = s.mem := by cases c <;> rfl
@[simp] theorem State.skipIf_status (s : State) (c : Bool) : (s.skipIf c).status = s.status := by cases c <;> rfl
@[simp] theorem State.skipIf_faultCode (s : State) (c : Bool) : (s.skipIf c).faultCode = s.faultCode := by cases c <;> rfl
@[simp] theorem State.skipIf_faultPc (s : State) (c : Bool) : (s.skipIf c).faultPc = s.faultPc := by cases c <;> rfl
@[simp] theorem State.skipIf_faultWord (s : State) (c : Bool) : (s.skipIf c).faultWord = s.faultWord := by cases c <;> rfl
@[simp] theorem State.skipIf_cfg (s : State) (c : Bool) : (s.skipIf c).cfg = s.cfg := by cases c <;> rfl
@[simp] theorem State.skipIf_agenda (s : State) (c : Bool) : (s.skipIf c).agenda = s.agenda := by cases c <;> rfl
@[simp] theorem State.skipIf_reply (s : State) (c : Bool) : (s.skipIf c).reply = s.reply := by cases c <;> rfl
@[simp] theorem State.skipIf_draws (s : State) (c : Bool) : (s.skipIf c).draws = s.draws := by cases c <;> rfl

/-! ### `writeByte` -/

@[simp] theorem State.writeByte_v (s : State) (a : Nat) (b : Byte) : (s.writeByte a b).v = s.v := rfl
@[simp] theorem State.writeByte_index (s : State) (a : Nat) (b : Byte) : (s.writeByte a b).index = s.index := rfl
@[simp] theorem State.writeByte_pc (s : State) (a : Nat) (b : Byte) : (s.writeByte a b).pc = s.pc := rfl
@[simp] theorem State.writeByte_sp (s : State) (a : Nat) (b : Byte) : (s.writeByte a b).sp = s.sp := rfl
@[simp] theorem State.writeByte_stack (s : State) (a : Nat) (b : Byte) : (s.writeByte a b).stack = s.stack := rfl
@[simp] theorem State.writeByte_dt (s : State) (a : Nat) (b : Byte) : (s.writeByte a b).dt = s.dt := rfl
@[simp] theorem State.writeByte_st (s : State) (a : Nat) (b : Byte) : (s.writeByte a b).st = s.st := rfl
@[simp] theorem State.writeByte_keyState (s : State) (a : Nat) (b : Byte) : (s.writeByte a b).keyState = s.keyState := rfl
@[simp] theorem State.writeByte_keys (s : State) (a : Nat) (b : Byte) : (s.writeByte a b).keys = s.keys := rfl
@[simp] theorem State.writeByte_fb (s : State) (a : Nat) (b : Byte) : (s.writeByte a b).fb = s.fb := rfl
@[simp] theorem State.writeByte_dirty (s : State) (a : Nat) (b : Byte) : (s.writeByte a b).dirty = s.dirty := rfl
@[simp] theorem State.writeByte_mem (s : State) (a : Nat) (b : Byte) : (s.writeByte a b).mem = s.mem.write s.cfg a b := rfl
@[simp] theorem State.writeByte_status (s : State) (a : Nat) (b : Byte) : (s.writeByte a b).status = s.status := rfl
@[simp] theorem State.writeByte_faultCode (s : State) (a : Nat) (b : Byte) : (s.writeByte a b).faultCode = s.faultCode := rfl
@[simp] theorem State.writeByte_faultPc (s : State) (a : Nat) (b : Byte) : (s.writeByte a b).faultPc = s.faultPc := rfl
@[simp] theorem State.writeByte_faultWord (s : State) (a : Nat) (b : Byte) : (s.writeByte a b).faultWord = s.faultWord := rfl
@[simp] theorem State.writeByte_cfg (s : State) (a : Nat) (b : Byte) : (s.writeByte a b).cfg = s.cfg := rfl
@[simp] theorem State.writeByte_agenda (s : State) (a : Nat) (b : Byte) : (s.writeByte a b).agenda = s.agenda := rfl
@[simp] theorem State.writeByte_reply (s : State) (a : Nat) (b : Byte) : (s.writeByte a b).reply = s.reply := rfl
@[simp] theorem State.writeByte_draws (s : State) (a : Nat) (b : Byte) : (s.writeByte a b).draws = s.draws := rfl

/-! ### `push` -/

@[simp] theorem State.push_v (s : State) (w : Word) : (s.push w).v = s.v := rfl
@[simp] theorem State.push_index (s : State) (w : Word) : (s.push w).index = s.index := rfl
@[simp] theorem State.push_pc (s : State) (w : Word) : (s.push w).pc = s.pc := rfl
@[simp] theorem State.push_sp (s : State) (w : Word) : (s.push w).sp = s.sp + 1 := rfl
@[simp] theorem State.push_stack (s : State) (w : Word) : (s.push w).stack = s.stack.setIfInBounds s.sp.toNat w := rfl
@[simp] theorem State.push_dt (s : State) (w : Word) : (s.push w).dt = s.dt := rfl
@[simp] theorem State.push_st (s : State) (w : Word) : (s.push w).st = s.st := rfl
@[simp] theorem State.push_keyState (s : State) (w : Word) : (s.push w).keyState = s.keyState := rfl
@[simp] theorem State.push_keys (s : State) (w : Word) : (s.push w).keys = s.keys := rfl
@[simp] theorem State.push_fb (s : State) (w : Word) : (s.push w).fb = s.fb := rfl
@[simp] theorem State.push_dirty (s : State) (w : Word) : (s.push w).dirty = s.dirty := rfl
@[simp] theorem State.push_mem (s : State) (w : Word) : (s.push w).mem = s.mem := rfl
@[simp] theorem State.push_status (s : State) (w : Word) : (s.push w).status = s.status := rfl
@[simp] theorem State.push_faultCode (s : State) (w : Word) : (s.push w).faultCode = s.faultCode := rfl
@[simp] theorem State.push_faultPc (s : State) (w : Word) : (s.push w).faultPc = s.faultPc := rfl
@[simp] theorem State.push_faultWord (s : State) (w : Word) : (s.push w).faultWord = s.faultWord := rfl
@[simp] theorem State.push_cfg (s : State) (w : Word) : (s.push w).cfg = s.cfg := rfl
@[simp] theorem State.push_agenda (s : State) (w : Word) : (s.push w).agenda = s.agenda := rfl
@[simp] theorem State.push_reply (s : State) (w : Word) : (s.push w).reply = s.reply := rfl
@[simp] theorem State.push_draws (s : State) (w : Word) : (s.push w).draws = s.draws := rfl

/-! ### `popPc` -/

@[simp] theorem State.popPc_v (s : State) : s.popPc.v = s.v := rfl
@[simp] theorem State.popPc_index (s : State) : s.popPc.index = s.index := rfl
@[simp] theorem State.popPc_pc (s : State) : s.popPc.pc = s.stackAt (s.sp - 1).toNat := rfl
@[simp] theorem State.popPc_sp (s : State) : s.popPc.sp = s.sp - 1 := rfl
@[simp] theorem State.popPc_stack (s : State) : s.popPc.stack = s.stack := rfl
@[simp] theorem State.popPc_dt (s : State) : s.popPc.dt = s.dt := rfl
@[simp] theorem State.popPc_st (s : State) : s.popPc.st = s.st := rfl
@[simp] theorem State.popPc_keyState (s : State) : s.popPc.keyState = s.keyState := rfl
@[simp] theorem State.popPc_keys (s : State) : s.popPc.keys = s.keys := rfl
@[simp] theorem State.popPc_fb (s : State) : s.popPc.fb = s.fb := rfl
@[simp] theorem State.popPc_dirty (s : State) : s.popPc.dirty = s.dirty := rfl
@[simp] theorem State.popPc_mem (s : State) : s.popPc.mem = s.mem := rfl
@[simp] theorem State.popPc_status (s : State) : s.popPc.status = s.status := rfl
@[simp] theorem State.popPc_faultCode (s : State) : s.popPc.faultCode = s.faultCode := rfl
@[simp] theorem State.popPc_faultPc (s : State) : s.popPc.faultPc = s.faultPc := rfl
@[simp] theorem State.popPc_faultWord (s : State) : s.popPc.faultWord = s.faultWord := rfl
@[simp] theorem State.popPc_cfg (s : State) : s.popPc.cfg = s.cfg := rfl
@[simp] theorem State.popPc_agenda (s : State) : s.popPc.agenda = s.agenda := rfl
@[simp] theorem State.popPc_reply (s : State) : s.popPc.reply = s.reply := rfl
@[simp] theorem State.popPc_draws (s : State) : s.popPc.draws = s.draws := rfl

/-! ### `markDirty` -/

@[simp] theorem State.markDirty_v (s : State) : s.markDirty.v = s.v := rfl
@[simp] theorem State.markDirty_index (s : State) : s.markDirty.index = s.index := rfl
@[simp] theorem State.markDirty_pc (s : State) : s.markDirty.pc = s.pc := rfl
@[simp] theorem State.markDirty_sp (s : State) : s.markDirty.sp = s.sp := rfl
@[simp] theorem State.markDirty_stack (s : State) : s.markDirty.stack = s.stack := rfl
@[simp] theorem State.markDirty_dt (s : State) : s.markDirty.dt = s.dt := rfl
@[simp] theorem State.markDirty_st (s : State) : s.markDirty.st = s.st := rfl
@[simp] theorem State.markDirty_keyState (s : State) : s.markDirty.keyState = s.keyState := rfl
@[simp] theorem State.markDirty_keys (s : State) : s.markDirty.keys = s.keys := rfl
@[simp] theorem State.markDirty_fb (s : State) : s.markDirty.fb = s.fb := rfl
@[simp] theorem State.markDirty_dirty (s : State) : s.markDirty.dirty = true := rfl
@[simp] theorem State.markDirty_mem (s : State) : s.markDirty.mem = s.mem := rfl
@[simp] theorem State.markDirty_status (s : State) : s.markDirty.status = s.status := rfl
@[simp] theorem State.markDirty_faultCode (s : State) : s.markDirty.faultCode = s.faultCode := rfl
@[simp] theorem State.markDirty_faultPc (s : State) : s.markDirty.faultPc = s.faultPc := rfl
@[simp] theorem State.markDirty_faultWord (s : State) : s.markDirty.faultWord = s.faultWord := rfl
@[simp] theorem State.markDirty_cfg (s : State) : s.markDirty.cfg = s.cfg := rfl
@[simp] theorem State.markDirty_agenda (s : State) : s.markDirty.agenda = s.agenda := rfl
@[simp] theorem State.markDirty_reply (s : State) : s.markDirty.reply = .issued .displayDirty none := rfl
@[simp] theorem State.markDirty_draws (s : State) : s.markDirty.draws = s.draws := rfl

/-! ### `setFb` -/

@[simp] theorem State.setFb_v (s : State) (fb : Framebuffer) : (s.setFb fb).v = s.v := rfl
@[simp] theorem State.setFb_index (s : State) (fb : Framebuffer) : (s.setFb fb).index = s.index := rfl
@[simp] theorem State.setFb_pc (s : State) (fb : Framebuffer) : (s.setFb fb).pc = s.pc := rfl
@[simp] theorem State.setFb_sp (s : State) (fb : Framebuffer) : (s.setFb fb).sp = s.sp := rfl
@[simp] theorem State.setFb_stack (s : State) (fb : Framebuffer) : (s.setFb fb).stack = s.stack := rfl
@[simp] theorem State.setFb_dt (s : State) (fb : Framebuffer) : (s.setFb fb).dt = s.dt := rfl
@[simp] theorem State.setFb_st (s : State) (fb : Framebuffer) : (s.setFb fb).st = s.st := rfl
@[simp] theorem State.setFb_keyState (s : State) (fb : Framebuffer) : (s.setFb fb).keyState = s.keyState := rfl
@[simp] theorem State.setFb_keys (s : State) (fb : Framebuffer) : (s.setFb fb).keys = s.keys := rfl
@[simp] theorem State.setFb_fb (s : State) (fb : Framebuffer) : (s.setFb fb).fb = fb := rfl
@[simp] theorem State.setFb_dirty (s : State) (fb : Framebuffer) : (s.setFb fb).dirty = s.dirty := rfl
@[simp] theorem State.setFb_mem (s : State) (fb : Framebuffer) : (s.setFb fb).mem = s.mem := rfl
@[simp] theorem State.setFb_status (s : State) (fb : Framebuffer) : (s.setFb fb).status = s.status := rfl
@[simp] theorem State.setFb_faultCode (s : State) (fb : Framebuffer) : (s.setFb fb).faultCode = s.faultCode := rfl
@[simp] theorem State.setFb_faultPc (s : State) (fb : Framebuffer) : (s.setFb fb).faultPc = s.faultPc := rfl
@[simp] theorem State.setFb_faultWord (s : State) (fb : Framebuffer) : (s.setFb fb).faultWord = s.faultWord := rfl
@[simp] theorem State.setFb_cfg (s : State) (fb : Framebuffer) : (s.setFb fb).cfg = s.cfg := rfl
@[simp] theorem State.setFb_agenda (s : State) (fb : Framebuffer) : (s.setFb fb).agenda = s.agenda := rfl
@[simp] theorem State.setFb_reply (s : State) (fb : Framebuffer) : (s.setFb fb).reply = s.reply := rfl
@[simp] theorem State.setFb_draws (s : State) (fb : Framebuffer) : (s.setFb fb).draws = s.draws := rfl

/-! ### `drawn` -/

@[simp] theorem State.drawn_v (s : State) : s.drawn.v = s.v := rfl
@[simp] theorem State.drawn_index (s : State) : s.drawn.index = s.index := rfl
@[simp] theorem State.drawn_pc (s : State) : s.drawn.pc = s.pc := rfl
@[simp] theorem State.drawn_sp (s : State) : s.drawn.sp = s.sp := rfl
@[simp] theorem State.drawn_stack (s : State) : s.drawn.stack = s.stack := rfl
@[simp] theorem State.drawn_dt (s : State) : s.drawn.dt = s.dt := rfl
@[simp] theorem State.drawn_st (s : State) : s.drawn.st = s.st := rfl
@[simp] theorem State.drawn_keyState (s : State) : s.drawn.keyState = s.keyState := rfl
@[simp] theorem State.drawn_keys (s : State) : s.drawn.keys = s.keys := rfl
@[simp] theorem State.drawn_fb (s : State) : s.drawn.fb = s.fb := rfl
@[simp] theorem State.drawn_dirty (s : State) : s.drawn.dirty = s.dirty := rfl
@[simp] theorem State.drawn_mem (s : State) : s.drawn.mem = s.mem := rfl
@[simp] theorem State.drawn_status (s : State) : s.drawn.status = s.status := rfl
@[simp] theorem State.drawn_faultCode (s : State) : s.drawn.faultCode = s.faultCode := rfl
@[simp] theorem State.drawn_faultPc (s : State) : s.drawn.faultPc = s.faultPc := rfl
@[simp] theorem State.drawn_faultWord (s : State) : s.drawn.faultWord = s.faultWord := rfl
@[simp] theorem State.drawn_cfg (s : State) : s.drawn.cfg = s.cfg := rfl
@[simp] theorem State.drawn_agenda (s : State) : s.drawn.agenda = s.agenda := rfl
@[simp] theorem State.drawn_reply (s : State) : s.drawn.reply = s.reply := rfl
@[simp] theorem State.drawn_draws (s : State) : s.drawn.draws = s.draws + 1 := rfl

/-! ### `raise` -/

@[simp] theorem State.raise_v (s : State) (f : FaultKind) : (s.raise f).v = s.v := rfl
@[simp] theorem State.raise_index (s : State) (f : FaultKind) : (s.raise f).index = s.index := rfl
@[simp] theorem State.raise_pc (s : State) (f : FaultKind) : (s.raise f).pc = s.pc := rfl
@[simp] theorem State.raise_sp (s : State) (f : FaultKind) : (s.raise f).sp = s.sp := rfl
@[simp] theorem State.raise_stack (s : State) (f : FaultKind) : (s.raise f).stack = s.stack := rfl
@[simp] theorem State.raise_dt (s : State) (f : FaultKind) : (s.raise f).dt = s.dt := rfl
@[simp] theorem State.raise_st (s : State) (f : FaultKind) : (s.raise f).st = s.st := rfl
@[simp] theorem State.raise_keyState (s : State) (f : FaultKind) : (s.raise f).keyState = s.keyState := rfl
@[simp] theorem State.raise_keys (s : State) (f : FaultKind) : (s.raise f).keys = s.keys := rfl
@[simp] theorem State.raise_fb (s : State) (f : FaultKind) : (s.raise f).fb = s.fb := rfl
@[simp] theorem State.raise_dirty (s : State) (f : FaultKind) : (s.raise f).dirty = s.dirty := rfl
@[simp] theorem State.raise_mem (s : State) (f : FaultKind) : (s.raise f).mem = s.mem := rfl
@[simp] theorem State.raise_status (s : State) (f : FaultKind) : (s.raise f).status = .faulted := rfl
@[simp] theorem State.raise_faultCode (s : State) (f : FaultKind) : (s.raise f).faultCode = f.code := rfl
@[simp] theorem State.raise_faultPc (s : State) (f : FaultKind) : (s.raise f).faultPc = s.pc := rfl
@[simp] theorem State.raise_faultWord (s : State) (f : FaultKind) : (s.raise f).faultWord = s.fetchWord.getD 0 := rfl
@[simp] theorem State.raise_cfg (s : State) (f : FaultKind) : (s.raise f).cfg = s.cfg := rfl
@[simp] theorem State.raise_agenda (s : State) (f : FaultKind) : (s.raise f).agenda = s.agenda := rfl
@[simp] theorem State.raise_reply (s : State) (f : FaultKind) : (s.raise f).reply = .issued .none (some f) := rfl
@[simp] theorem State.raise_draws (s : State) (f : FaultKind) : (s.raise f).draws = s.draws := rfl

/-! ### `advanceIndex` -/

@[simp] theorem State.advanceIndex_v (s : State) (x : Reg) : (s.advanceIndex x).v = s.v := by unfold State.advanceIndex; split <;> rfl
@[simp] theorem State.advanceIndex_pc (s : State) (x : Reg) : (s.advanceIndex x).pc = s.pc := by unfold State.advanceIndex; split <;> rfl
@[simp] theorem State.advanceIndex_sp (s : State) (x : Reg) : (s.advanceIndex x).sp = s.sp := by unfold State.advanceIndex; split <;> rfl
@[simp] theorem State.advanceIndex_stack (s : State) (x : Reg) : (s.advanceIndex x).stack = s.stack := by unfold State.advanceIndex; split <;> rfl
@[simp] theorem State.advanceIndex_dt (s : State) (x : Reg) : (s.advanceIndex x).dt = s.dt := by unfold State.advanceIndex; split <;> rfl
@[simp] theorem State.advanceIndex_st (s : State) (x : Reg) : (s.advanceIndex x).st = s.st := by unfold State.advanceIndex; split <;> rfl
@[simp] theorem State.advanceIndex_keyState (s : State) (x : Reg) : (s.advanceIndex x).keyState = s.keyState := by unfold State.advanceIndex; split <;> rfl
@[simp] theorem State.advanceIndex_keys (s : State) (x : Reg) : (s.advanceIndex x).keys = s.keys := by unfold State.advanceIndex; split <;> rfl
@[simp] theorem State.advanceIndex_fb (s : State) (x : Reg) : (s.advanceIndex x).fb = s.fb := by unfold State.advanceIndex; split <;> rfl
@[simp] theorem State.advanceIndex_dirty (s : State) (x : Reg) : (s.advanceIndex x).dirty = s.dirty := by unfold State.advanceIndex; split <;> rfl
@[simp] theorem State.advanceIndex_mem (s : State) (x : Reg) : (s.advanceIndex x).mem = s.mem := by unfold State.advanceIndex; split <;> rfl
@[simp] theorem State.advanceIndex_status (s : State) (x : Reg) : (s.advanceIndex x).status = s.status := by unfold State.advanceIndex; split <;> rfl
@[simp] theorem State.advanceIndex_faultCode (s : State) (x : Reg) : (s.advanceIndex x).faultCode = s.faultCode := by unfold State.advanceIndex; split <;> rfl
@[simp] theorem State.advanceIndex_faultPc (s : State) (x : Reg) : (s.advanceIndex x).faultPc = s.faultPc := by unfold State.advanceIndex; split <;> rfl
@[simp] theorem State.advanceIndex_faultWord (s : State) (x : Reg) : (s.advanceIndex x).faultWord = s.faultWord := by unfold State.advanceIndex; split <;> rfl
@[simp] theorem State.advanceIndex_cfg (s : State) (x : Reg) : (s.advanceIndex x).cfg = s.cfg := by unfold State.advanceIndex; split <;> rfl
@[simp] theorem State.advanceIndex_agenda (s : State) (x : Reg) : (s.advanceIndex x).agenda = s.agenda := by unfold State.advanceIndex; split <;> rfl
@[simp] theorem State.advanceIndex_reply (s : State) (x : Reg) : (s.advanceIndex x).reply = s.reply := by unfold State.advanceIndex; split <;> rfl
@[simp] theorem State.advanceIndex_draws (s : State) (x : Reg) : (s.advanceIndex x).draws = s.draws := by unfold State.advanceIndex; split <;> rfl

/-! ### `tick` -/

@[simp] theorem State.tick_v (s : State) : s.tick.v = s.v := rfl
@[simp] theorem State.tick_index (s : State) : s.tick.index = s.index := rfl
@[simp] theorem State.tick_pc (s : State) : s.tick.pc = s.pc := rfl
@[simp] theorem State.tick_sp (s : State) : s.tick.sp = s.sp := rfl
@[simp] theorem State.tick_stack (s : State) : s.tick.stack = s.stack := rfl
@[simp] theorem State.tick_dt (s : State) : s.tick.dt = countDown s.dt := rfl
@[simp] theorem State.tick_st (s : State) : s.tick.st = countDown s.st := rfl
@[simp] theorem State.tick_keyState (s : State) : s.tick.keyState = s.keyState := rfl
@[simp] theorem State.tick_keys (s : State) : s.tick.keys = s.keys := rfl
@[simp] theorem State.tick_fb (s : State) : s.tick.fb = s.fb := rfl
@[simp] theorem State.tick_dirty (s : State) : s.tick.dirty = s.dirty := rfl
@[simp] theorem State.tick_mem (s : State) : s.tick.mem = s.mem := rfl
@[simp] theorem State.tick_status (s : State) : s.tick.status = s.status := rfl
@[simp] theorem State.tick_faultCode (s : State) : s.tick.faultCode = s.faultCode := rfl
@[simp] theorem State.tick_faultPc (s : State) : s.tick.faultPc = s.faultPc := rfl
@[simp] theorem State.tick_faultWord (s : State) : s.tick.faultWord = s.faultWord := rfl
@[simp] theorem State.tick_cfg (s : State) : s.tick.cfg = s.cfg := rfl
@[simp] theorem State.tick_agenda (s : State) : s.tick.agenda = s.agenda := rfl
@[simp] theorem State.tick_reply (s : State) : s.tick.reply = .nothing := rfl
@[simp] theorem State.tick_draws (s : State) : s.tick.draws = s.draws := rfl

/-! ### `keyWrite` -/

@[simp] theorem State.keyWrite_v (s : State) (ks : Vector Bool 16) : (s.keyWrite ks).v = s.v := rfl
@[simp] theorem State.keyWrite_index (s : State) (ks : Vector Bool 16) : (s.keyWrite ks).index = s.index := rfl
@[simp] theorem State.keyWrite_pc (s : State) (ks : Vector Bool 16) : (s.keyWrite ks).pc = s.pc := rfl
@[simp] theorem State.keyWrite_sp (s : State) (ks : Vector Bool 16) : (s.keyWrite ks).sp = s.sp := rfl
@[simp] theorem State.keyWrite_stack (s : State) (ks : Vector Bool 16) : (s.keyWrite ks).stack = s.stack := rfl
@[simp] theorem State.keyWrite_dt (s : State) (ks : Vector Bool 16) : (s.keyWrite ks).dt = s.dt := rfl
@[simp] theorem State.keyWrite_st (s : State) (ks : Vector Bool 16) : (s.keyWrite ks).st = s.st := rfl
@[simp] theorem State.keyWrite_keyState (s : State) (ks : Vector Bool 16) : (s.keyWrite ks).keyState = ks := rfl
@[simp] theorem State.keyWrite_keys (s : State) (ks : Vector Bool 16) : (s.keyWrite ks).keys = s.keys := rfl
@[simp] theorem State.keyWrite_fb (s : State) (ks : Vector Bool 16) : (s.keyWrite ks).fb = s.fb := rfl
@[simp] theorem State.keyWrite_dirty (s : State) (ks : Vector Bool 16) : (s.keyWrite ks).dirty = s.dirty := rfl
@[simp] theorem State.keyWrite_mem (s : State) (ks : Vector Bool 16) : (s.keyWrite ks).mem = s.mem := rfl
@[simp] theorem State.keyWrite_status (s : State) (ks : Vector Bool 16) : (s.keyWrite ks).status = s.status := rfl
@[simp] theorem State.keyWrite_faultCode (s : State) (ks : Vector Bool 16) : (s.keyWrite ks).faultCode = s.faultCode := rfl
@[simp] theorem State.keyWrite_faultPc (s : State) (ks : Vector Bool 16) : (s.keyWrite ks).faultPc = s.faultPc := rfl
@[simp] theorem State.keyWrite_faultWord (s : State) (ks : Vector Bool 16) : (s.keyWrite ks).faultWord = s.faultWord := rfl
@[simp] theorem State.keyWrite_cfg (s : State) (ks : Vector Bool 16) : (s.keyWrite ks).cfg = s.cfg := rfl
@[simp] theorem State.keyWrite_agenda (s : State) (ks : Vector Bool 16) : (s.keyWrite ks).agenda = s.agenda := rfl
@[simp] theorem State.keyWrite_reply (s : State) (ks : Vector Bool 16) : (s.keyWrite ks).reply = .nothing := rfl
@[simp] theorem State.keyWrite_draws (s : State) (ks : Vector Bool 16) : (s.keyWrite ks).draws = s.draws := rfl

/-! ### `displayRead` -/

@[simp] theorem State.displayRead_v (s : State) : s.displayRead.v = s.v := rfl
@[simp] theorem State.displayRead_index (s : State) : s.displayRead.index = s.index := rfl
@[simp] theorem State.displayRead_pc (s : State) : s.displayRead.pc = s.pc := rfl
@[simp] theorem State.displayRead_sp (s : State) : s.displayRead.sp = s.sp := rfl
@[simp] theorem State.displayRead_stack (s : State) : s.displayRead.stack = s.stack := rfl
@[simp] theorem State.displayRead_dt (s : State) : s.displayRead.dt = s.dt := rfl
@[simp] theorem State.displayRead_st (s : State) : s.displayRead.st = s.st := rfl
@[simp] theorem State.displayRead_keyState (s : State) : s.displayRead.keyState = s.keyState := rfl
@[simp] theorem State.displayRead_keys (s : State) : s.displayRead.keys = s.keys := rfl
@[simp] theorem State.displayRead_fb (s : State) : s.displayRead.fb = s.fb := rfl
@[simp] theorem State.displayRead_dirty (s : State) : s.displayRead.dirty = false := rfl
@[simp] theorem State.displayRead_mem (s : State) : s.displayRead.mem = s.mem := rfl
@[simp] theorem State.displayRead_status (s : State) : s.displayRead.status = s.status := rfl
@[simp] theorem State.displayRead_faultCode (s : State) : s.displayRead.faultCode = s.faultCode := rfl
@[simp] theorem State.displayRead_faultPc (s : State) : s.displayRead.faultPc = s.faultPc := rfl
@[simp] theorem State.displayRead_faultWord (s : State) : s.displayRead.faultWord = s.faultWord := rfl
@[simp] theorem State.displayRead_cfg (s : State) : s.displayRead.cfg = s.cfg := rfl
@[simp] theorem State.displayRead_agenda (s : State) : s.displayRead.agenda = s.agenda := rfl
@[simp] theorem State.displayRead_reply (s : State) : s.displayRead.reply = .display s.fb s.dirty := rfl
@[simp] theorem State.displayRead_draws (s : State) : s.displayRead.draws = s.draws := rfl

/-! ### `beginStep` -/

@[simp] theorem State.beginStep_v (s : State) : s.beginStep.v = s.v := rfl
@[simp] theorem State.beginStep_index (s : State) : s.beginStep.index = s.index := rfl
@[simp] theorem State.beginStep_pc (s : State) : s.beginStep.pc = s.pc := rfl
@[simp] theorem State.beginStep_sp (s : State) : s.beginStep.sp = s.sp := rfl
@[simp] theorem State.beginStep_stack (s : State) : s.beginStep.stack = s.stack := rfl
@[simp] theorem State.beginStep_dt (s : State) : s.beginStep.dt = s.dt := rfl
@[simp] theorem State.beginStep_st (s : State) : s.beginStep.st = s.st := rfl
@[simp] theorem State.beginStep_keyState (s : State) : s.beginStep.keyState = s.keyState := rfl
@[simp] theorem State.beginStep_keys (s : State) : s.beginStep.keys = s.keyState := rfl
@[simp] theorem State.beginStep_fb (s : State) : s.beginStep.fb = s.fb := rfl
@[simp] theorem State.beginStep_dirty (s : State) : s.beginStep.dirty = s.dirty := rfl
@[simp] theorem State.beginStep_mem (s : State) : s.beginStep.mem = s.mem := rfl
@[simp] theorem State.beginStep_status (s : State) : s.beginStep.status = s.status := rfl
@[simp] theorem State.beginStep_faultCode (s : State) : s.beginStep.faultCode = s.faultCode := rfl
@[simp] theorem State.beginStep_faultPc (s : State) : s.beginStep.faultPc = s.faultPc := rfl
@[simp] theorem State.beginStep_faultWord (s : State) : s.beginStep.faultWord = s.faultWord := rfl
@[simp] theorem State.beginStep_cfg (s : State) : s.beginStep.cfg = s.cfg := rfl
@[simp] theorem State.beginStep_agenda (s : State) : s.beginStep.agenda = s.agenda := rfl
@[simp] theorem State.beginStep_reply (s : State) : s.beginStep.reply = .issued .none none := rfl
@[simp] theorem State.beginStep_draws (s : State) : s.beginStep.draws = s.draws := rfl

/-! ### `ignorePulse` -/

@[simp] theorem State.ignorePulse_v (s : State) : s.ignorePulse.v = s.v := rfl
@[simp] theorem State.ignorePulse_index (s : State) : s.ignorePulse.index = s.index := rfl
@[simp] theorem State.ignorePulse_pc (s : State) : s.ignorePulse.pc = s.pc := rfl
@[simp] theorem State.ignorePulse_sp (s : State) : s.ignorePulse.sp = s.sp := rfl
@[simp] theorem State.ignorePulse_stack (s : State) : s.ignorePulse.stack = s.stack := rfl
@[simp] theorem State.ignorePulse_dt (s : State) : s.ignorePulse.dt = s.dt := rfl
@[simp] theorem State.ignorePulse_st (s : State) : s.ignorePulse.st = s.st := rfl
@[simp] theorem State.ignorePulse_keyState (s : State) : s.ignorePulse.keyState = s.keyState := rfl
@[simp] theorem State.ignorePulse_keys (s : State) : s.ignorePulse.keys = s.keys := rfl
@[simp] theorem State.ignorePulse_fb (s : State) : s.ignorePulse.fb = s.fb := rfl
@[simp] theorem State.ignorePulse_dirty (s : State) : s.ignorePulse.dirty = s.dirty := rfl
@[simp] theorem State.ignorePulse_mem (s : State) : s.ignorePulse.mem = s.mem := rfl
@[simp] theorem State.ignorePulse_status (s : State) : s.ignorePulse.status = s.status := rfl
@[simp] theorem State.ignorePulse_faultCode (s : State) : s.ignorePulse.faultCode = s.faultCode := rfl
@[simp] theorem State.ignorePulse_faultPc (s : State) : s.ignorePulse.faultPc = s.faultPc := rfl
@[simp] theorem State.ignorePulse_faultWord (s : State) : s.ignorePulse.faultWord = s.faultWord := rfl
@[simp] theorem State.ignorePulse_cfg (s : State) : s.ignorePulse.cfg = s.cfg := rfl
@[simp] theorem State.ignorePulse_agenda (s : State) : s.ignorePulse.agenda = s.agenda := rfl
@[simp] theorem State.ignorePulse_reply (s : State) : s.ignorePulse.reply = .nothing := rfl
@[simp] theorem State.ignorePulse_draws (s : State) : s.ignorePulse.draws = s.draws := rfl

/-! ### `popEvent` -/

@[simp] theorem State.popEvent_v (s : State) : s.popEvent.v = s.v := rfl
@[simp] theorem State.popEvent_index (s : State) : s.popEvent.index = s.index := rfl
@[simp] theorem State.popEvent_pc (s : State) : s.popEvent.pc = s.pc := rfl
@[simp] theorem State.popEvent_sp (s : State) : s.popEvent.sp = s.sp := rfl
@[simp] theorem State.popEvent_stack (s : State) : s.popEvent.stack = s.stack := rfl
@[simp] theorem State.popEvent_dt (s : State) : s.popEvent.dt = s.dt := rfl
@[simp] theorem State.popEvent_st (s : State) : s.popEvent.st = s.st := rfl
@[simp] theorem State.popEvent_keyState (s : State) : s.popEvent.keyState = s.keyState := rfl
@[simp] theorem State.popEvent_keys (s : State) : s.popEvent.keys = s.keys := rfl
@[simp] theorem State.popEvent_fb (s : State) : s.popEvent.fb = s.fb := rfl
@[simp] theorem State.popEvent_dirty (s : State) : s.popEvent.dirty = s.dirty := rfl
@[simp] theorem State.popEvent_mem (s : State) : s.popEvent.mem = s.mem := rfl
@[simp] theorem State.popEvent_status (s : State) : s.popEvent.status = s.status := rfl
@[simp] theorem State.popEvent_faultCode (s : State) : s.popEvent.faultCode = s.faultCode := rfl
@[simp] theorem State.popEvent_faultPc (s : State) : s.popEvent.faultPc = s.faultPc := rfl
@[simp] theorem State.popEvent_faultWord (s : State) : s.popEvent.faultWord = s.faultWord := rfl
@[simp] theorem State.popEvent_cfg (s : State) : s.popEvent.cfg = s.cfg := rfl
@[simp] theorem State.popEvent_agenda (s : State) : s.popEvent.agenda = s.agenda.tail := rfl
@[simp] theorem State.popEvent_reply (s : State) : s.popEvent.reply = s.reply := rfl
@[simp] theorem State.popEvent_draws (s : State) : s.popEvent.draws = s.draws := rfl

/-! ### `storeFrom`, by the bytes stored: only memory moves -/

@[simp] theorem State.storeFrom_v (s : State) (a : Nat) (bs : List Byte) : (s.storeFrom a bs).v = s.v := by
  induction bs generalizing s a with
  | nil => rfl
  | cons b bs ih => simp [State.storeFrom, ih]
@[simp] theorem State.storeFrom_index (s : State) (a : Nat) (bs : List Byte) : (s.storeFrom a bs).index = s.index := by
  induction bs generalizing s a with
  | nil => rfl
  | cons b bs ih => simp [State.storeFrom, ih]
@[simp] theorem State.storeFrom_pc (s : State) (a : Nat) (bs : List Byte) : (s.storeFrom a bs).pc = s.pc := by
  induction bs generalizing s a with
  | nil => rfl
  | cons b bs ih => simp [State.storeFrom, ih]
@[simp] theorem State.storeFrom_sp (s : State) (a : Nat) (bs : List Byte) : (s.storeFrom a bs).sp = s.sp := by
  induction bs generalizing s a with
  | nil => rfl
  | cons b bs ih => simp [State.storeFrom, ih]
@[simp] theorem State.storeFrom_stack (s : State) (a : Nat) (bs : List Byte) : (s.storeFrom a bs).stack = s.stack := by
  induction bs generalizing s a with
  | nil => rfl
  | cons b bs ih => simp [State.storeFrom, ih]
@[simp] theorem State.storeFrom_dt (s : State) (a : Nat) (bs : List Byte) : (s.storeFrom a bs).dt = s.dt := by
  induction bs generalizing s a with
  | nil => rfl
  | cons b bs ih => simp [State.storeFrom, ih]
@[simp] theorem State.storeFrom_st (s : State) (a : Nat) (bs : List Byte) : (s.storeFrom a bs).st = s.st := by
  induction bs generalizing s a with
  | nil => rfl
  | cons b bs ih => simp [State.storeFrom, ih]
@[simp] theorem State.storeFrom_keyState (s : State) (a : Nat) (bs : List Byte) : (s.storeFrom a bs).keyState = s.keyState := by
  induction bs generalizing s a with
  | nil => rfl
  | cons b bs ih => simp [State.storeFrom, ih]
@[simp] theorem State.storeFrom_keys (s : State) (a : Nat) (bs : List Byte) : (s.storeFrom a bs).keys = s.keys := by
  induction bs generalizing s a with
  | nil => rfl
  | cons b bs ih => simp [State.storeFrom, ih]
@[simp] theorem State.storeFrom_fb (s : State) (a : Nat) (bs : List Byte) : (s.storeFrom a bs).fb = s.fb := by
  induction bs generalizing s a with
  | nil => rfl
  | cons b bs ih => simp [State.storeFrom, ih]
@[simp] theorem State.storeFrom_dirty (s : State) (a : Nat) (bs : List Byte) : (s.storeFrom a bs).dirty = s.dirty := by
  induction bs generalizing s a with
  | nil => rfl
  | cons b bs ih => simp [State.storeFrom, ih]
@[simp] theorem State.storeFrom_status (s : State) (a : Nat) (bs : List Byte) : (s.storeFrom a bs).status = s.status := by
  induction bs generalizing s a with
  | nil => rfl
  | cons b bs ih => simp [State.storeFrom, ih]
@[simp] theorem State.storeFrom_faultCode (s : State) (a : Nat) (bs : List Byte) : (s.storeFrom a bs).faultCode = s.faultCode := by
  induction bs generalizing s a with
  | nil => rfl
  | cons b bs ih => simp [State.storeFrom, ih]
@[simp] theorem State.storeFrom_faultPc (s : State) (a : Nat) (bs : List Byte) : (s.storeFrom a bs).faultPc = s.faultPc := by
  induction bs generalizing s a with
  | nil => rfl
  | cons b bs ih => simp [State.storeFrom, ih]
@[simp] theorem State.storeFrom_faultWord (s : State) (a : Nat) (bs : List Byte) : (s.storeFrom a bs).faultWord = s.faultWord := by
  induction bs generalizing s a with
  | nil => rfl
  | cons b bs ih => simp [State.storeFrom, ih]
@[simp] theorem State.storeFrom_cfg (s : State) (a : Nat) (bs : List Byte) : (s.storeFrom a bs).cfg = s.cfg := by
  induction bs generalizing s a with
  | nil => rfl
  | cons b bs ih => simp [State.storeFrom, ih]
@[simp] theorem State.storeFrom_agenda (s : State) (a : Nat) (bs : List Byte) : (s.storeFrom a bs).agenda = s.agenda := by
  induction bs generalizing s a with
  | nil => rfl
  | cons b bs ih => simp [State.storeFrom, ih]
@[simp] theorem State.storeFrom_reply (s : State) (a : Nat) (bs : List Byte) : (s.storeFrom a bs).reply = s.reply := by
  induction bs generalizing s a with
  | nil => rfl
  | cons b bs ih => simp [State.storeFrom, ih]
@[simp] theorem State.storeFrom_draws (s : State) (a : Nat) (bs : List Byte) : (s.storeFrom a bs).draws = s.draws := by
  induction bs generalizing s a with
  | nil => rfl
  | cons b bs ih => simp [State.storeFrom, ih]

/-! ### `reload`: what a load keeps, and what it resets -/

@[simp] theorem State.reload_v (s : State) (cfg : Config) (rom : List Byte) : (s.reload cfg rom).v = State.reset.v := rfl
@[simp] theorem State.reload_index (s : State) (cfg : Config) (rom : List Byte) : (s.reload cfg rom).index = State.reset.index := rfl
@[simp] theorem State.reload_pc (s : State) (cfg : Config) (rom : List Byte) : (s.reload cfg rom).pc = State.reset.pc := rfl
@[simp] theorem State.reload_sp (s : State) (cfg : Config) (rom : List Byte) : (s.reload cfg rom).sp = State.reset.sp := rfl
@[simp] theorem State.reload_stack (s : State) (cfg : Config) (rom : List Byte) : (s.reload cfg rom).stack = State.reset.stack := rfl
@[simp] theorem State.reload_dt (s : State) (cfg : Config) (rom : List Byte) : (s.reload cfg rom).dt = State.reset.dt := rfl
@[simp] theorem State.reload_st (s : State) (cfg : Config) (rom : List Byte) : (s.reload cfg rom).st = State.reset.st := rfl
@[simp] theorem State.reload_keyState (s : State) (cfg : Config) (rom : List Byte) : (s.reload cfg rom).keyState = s.keyState := rfl
@[simp] theorem State.reload_keys (s : State) (cfg : Config) (rom : List Byte) : (s.reload cfg rom).keys = s.keys := rfl
@[simp] theorem State.reload_fb (s : State) (cfg : Config) (rom : List Byte) : (s.reload cfg rom).fb = State.reset.fb := rfl
@[simp] theorem State.reload_dirty (s : State) (cfg : Config) (rom : List Byte) : (s.reload cfg rom).dirty = State.reset.dirty := rfl
@[simp] theorem State.reload_mem (s : State) (cfg : Config) (rom : List Byte) : (s.reload cfg rom).mem = Memory.ofBytes cfg romBase rom := rfl
@[simp] theorem State.reload_status (s : State) (cfg : Config) (rom : List Byte) : (s.reload cfg rom).status = State.reset.status := rfl
@[simp] theorem State.reload_faultCode (s : State) (cfg : Config) (rom : List Byte) : (s.reload cfg rom).faultCode = State.reset.faultCode := rfl
@[simp] theorem State.reload_faultPc (s : State) (cfg : Config) (rom : List Byte) : (s.reload cfg rom).faultPc = State.reset.faultPc := rfl
@[simp] theorem State.reload_faultWord (s : State) (cfg : Config) (rom : List Byte) : (s.reload cfg rom).faultWord = State.reset.faultWord := rfl
@[simp] theorem State.reload_cfg (s : State) (cfg : Config) (rom : List Byte) : (s.reload cfg rom).cfg = cfg := rfl
@[simp] theorem State.reload_agenda (s : State) (cfg : Config) (rom : List Byte) : (s.reload cfg rom).agenda = s.agenda := rfl
@[simp] theorem State.reload_reply (s : State) (cfg : Config) (rom : List Byte) : (s.reload cfg rom).reply = State.reset.reply := rfl
@[simp] theorem State.reload_draws (s : State) (cfg : Config) (rom : List Byte) : (s.reload cfg rom).draws = s.draws := rfl

end Sys2Proof.Machine
end

