-- ==== Sys2Proof/Laws/Ops.lean ====
section
/-! SUPPORT. One lemma per shared operation of Machine/Ops.lean, saying once what it can do: registers, block loads, checked
reads and writes, the fetch, the stack and the frame of a fault. -/

namespace Sys2Proof.Machine

/-! ### Registers -/

theorem State.reg_setReg (s : State) (x y : Reg) (b : Byte) : (s.setReg x b).reg y = if x = y then b else s.reg y := by
  simp only [State.reg, State.setReg_v, Fin.getElem_fin, Vector.getElem_set, Fin.ext_iff]

theorem State.reg_setRegFlag (s : State) (x y : Reg) (b c : Byte) :
    (s.setRegFlag x b c).reg y = if y = 15 then c else if x = y then b else s.reg y := by
  simp only [State.setRegFlag, State.reg_setReg, eq_comm (a := (15 : Reg))]

theorem State.reg_congr {s t : State} (h : t.v = s.v) (x : Reg) : t.reg x = s.reg x := by
  simp only [State.reg, h]

/-- A block load: the k-th byte lands in register `k0 + k`, the other registers stay. -/
theorem loadRegsFrom_getElem (k0 : Nat) (bs : List Byte) (v : Vector Byte 16) (y : Nat) (hy : y < 16) :
    (loadRegsFrom k0 bs v)[y] = if k0 ≤ y ∧ y < k0 + bs.length then (bs[y - k0]?).getD 0 else v[y] := by
  induction bs generalizing k0 v with
  | nil => rw [if_neg (by simp)]; rfl
  | cons b bs ih =>
    simp only [loadRegsFrom, ih, List.length_cons, Vector.getElem_setIfInBounds]
    by_cases h1 : k0 = y
    · subst h1; rw [if_neg (by omega)]; simp
    · by_cases h2 : k0 + 1 ≤ y ∧ y < k0 + 1 + bs.length
      · rw [if_pos h2, if_pos (by omega), show y - k0 = (y - (k0 + 1)) + 1 by omega]; simp
      · rw [if_neg h2, if_neg h1, if_neg (by omega)]

theorem State.reg_setRegs (s : State) (bs : List Byte) (y : Reg) :
    (s.setRegs bs).reg y = if y.val < bs.length then (bs[y.val]?).getD 0 else s.reg y := by
  simp only [State.reg, State.setRegs_v, Fin.getElem_fin, loadRegsFrom_getElem, Nat.zero_le, true_and, Nat.zero_add, Nat.sub_zero]

/-! ### Bytes of memory -/

theorem State.readByte_congr {s t : State} (hm : t.mem = s.mem) (hc : t.cfg = s.cfg) (a : Nat) :
    t.readByte a = s.readByte a := by simp only [State.readByte, hm, hc]

/-- A read after a write of one byte. -/
theorem State.readByte_writeByte (s : State) (a a' : Nat) (b : Byte) :
    (s.writeByte a b).readByte a' = if a = a' then b else s.readByte a' := by
  simp only [State.readByte, State.writeByte_mem, State.writeByte_cfg, Memory.read_write]

/-- What stores of several bytes leave at every address. -/
theorem State.readByte_storeFrom (s : State) (a : Nat) (bs : List Byte) (a' : Nat) :
    (s.storeFrom a bs).readByte a' = if a ≤ a' ∧ a' < a + bs.length then (bs[a' - a]?).getD 0 else s.readByte a' := by
  induction bs generalizing s a with
  | nil => rw [if_neg (by simp)]; rfl
  | cons b bs ih =>
    simp only [State.storeFrom, ih, State.readByte_writeByte, List.length_cons]
    by_cases h1 : a = a'
    · subst h1; rw [if_neg (by omega)]; simp
    · by_cases h2 : a + 1 ≤ a' ∧ a' < a + 1 + bs.length
      · rw [if_pos h2, if_pos (by omega), show a' - a = (a' - (a + 1)) + 1 by omega]; simp
      · rw [if_neg h2, if_neg h1, if_neg (by omega)]

theorem State.bytesFrom_length (s : State) (a n : Nat) : (s.bytesFrom a n).length = n := by
  induction n generalizing a with
  | zero => rfl
  | succ n ih => simp [State.bytesFrom, ih]

theorem State.bytesFrom_getElem? (s : State) (a n k : Nat) :
    (s.bytesFrom a n)[k]? = if k < n then some (s.readByte (a + k)) else none := by
  induction n generalizing a k with
  | zero => simp [State.bytesFrom]
  | succ n ih =>
    cases k with
    | zero => simp [State.bytesFrom]
    | succ k => simp only [State.bytesFrom, List.getElem?_cons_succ, ih, Nat.add_lt_add_iff_right]; rw [show a + 1 + k = a + (k + 1) by omega]

theorem State.bytesFrom_congr {s t : State} (hm : t.mem = s.mem) (hc : t.cfg = s.cfg) (a n : Nat) :
    t.bytesFrom a n = s.bytesFrom a n := by
  induction n generalizing a with
  | zero => rfl
  | succ n ih => simp only [State.bytesFrom, State.readByte_congr hm hc, ih]

/-! ### Checks and whole transfers (R60) -/

theorem checkAll_iff (ok : Nat → Bool) (a n : Nat) : checkAll ok a n = true ↔ ∀ k < n, ok (a + k) = true := by
  induction n generalizing a with
  | zero => simp [checkAll]
  | succ n ih =>
    simp only [checkAll, Bool.and_eq_true, ih]
    constructor
    · rintro ⟨h0, h⟩ k hk
      cases k with
      | zero => exact h0
      | succ k => have := h k (by omega); rwa [show a + 1 + k = a + (k + 1) by omega] at this
    · intro h
      refine ⟨h 0 (by omega), fun k hk => ?_⟩
      have := h (k + 1) (by omega); rwa [show a + (k + 1) = a + 1 + k by omega] at this

/-- A read checks its last address: every address of it is in bounds exactly when the last one is. -/
theorem checkAll_addressOk (a n : Nat) : checkAll addressOk a n = decide (n = 0 ∨ a + n - 1 < memSize) := by
  rw [Bool.eq_iff_iff, checkAll_iff, decide_eq_true_iff]
  constructor
  · intro h
    rcases Nat.eq_zero_or_pos n with h0 | h0
    · exact .inl h0
    · have := h (n - 1) (by omega); simp only [addressOk, decide_eq_true_iff] at this; omega
  · rintro (h | h) k hk
    · omega
    · simp only [addressOk, decide_eq_true_iff]; omega

/-- A write of at least one byte checks its last address against the bound and its first against the reserved region. -/
theorem checkAll_writeOk (cfg : Config) (a n : Nat) (hn : 0 < n) :
    checkAll (writeOk cfg) a n = decide (a + n - 1 < memSize ∧ ¬(cfg.protectReserved = true ∧ a ≤ reservedEnd)) := by
  rw [Bool.eq_iff_iff, checkAll_iff, decide_eq_true_iff]
  simp only [writeOk, addressOk, Bool.and_eq_true, decide_eq_true_iff, Bool.not_eq_true', Bool.and_eq_false_iff,
    decide_eq_false_iff_not]
  constructor
  · intro h
    have h0 := h 0 hn
    have h1 := h (n - 1) (by omega)
    refine ⟨by omega, fun hp => ?_⟩
    rcases h0.2 with h | h
    · rw [hp.1] at h; cases h
    · exact h hp.2
  · rintro ⟨hb, hp⟩ k hk
    refine ⟨by omega, ?_⟩
    by_cases hc : cfg.protectReserved = true
    · exact .inr fun hle => hp ⟨hc, by omega⟩
    · exact .inl (by simpa using hc)

/-- What a checked read answers. -/
theorem State.readBytes_eq (s : State) (a n : Nat) :
    s.readBytes a n = if n = 0 ∨ a + n - 1 < 0x1000 then some (s.bytesFrom a n) else none := by
  simp only [State.readBytes, checkAll_addressOk, decide_eq_true_iff]
  rfl

/-- What a checked write of at least one byte answers. -/
theorem State.writeBytes_eq (s : State) (a : Nat) (bs : List Byte) (hn : 0 < bs.length) :
    s.writeBytes a bs =
      if a + bs.length - 1 < 0x1000 ∧ ¬(s.cfg.protectReserved = true ∧ a ≤ 0x1FF) then some (s.storeFrom a bs)
      else none := by
  simp only [State.writeBytes, checkAll_writeOk _ _ _ hn, decide_eq_true_iff]
  rfl

/-- A checked write that answers stored its bytes, each at a legal address. -/
theorem State.writeBytes_some {s t : State} {a : Nat} {bs : List Byte} (h : s.writeBytes a bs = some t) :
    t = s.storeFrom a bs ∧ ∀ k < bs.length, writeOk s.cfg (a + k) = true := by
  unfold State.writeBytes at h
  split at h
  · rename_i hc; exact ⟨by simpa using h.symm, (checkAll_iff _ _ _).1 hc⟩
  · cases h

/-- Stores in bounds keep memory canonical. -/
theorem State.storeFrom_wf (s : State) (a : Nat) (bs : List Byte) (hb : ∀ k < bs.length, a + k < memSize)
    (h : s.mem.wf s.cfg = true) : (s.storeFrom a bs).mem.wf s.cfg = true := by
  induction bs generalizing s a with
  | nil => exact h
  | cons b bs ih =>
    have h' := Memory.wf_write s.cfg s.mem a b (by simpa using hb 0 (by simp)) h
    exact ih (s.writeByte a b) (a + 1)
      (fun k hk => by have := hb (k + 1) (by simpa using hk); omega) h'

/-! ### Fetch -/

/-- What a fetch answers (R130, R61). -/
theorem State.fetchWord_eq (s : State) :
    s.fetchWord = if s.pc.toNat + 1 < 0x1000 then
      some (joinBytes (s.readByte s.pc.toNat) (s.readByte (s.pc.toNat + 1))) else none := by
  simp only [State.fetchWord, addressOk, decide_eq_true_iff]
  rfl

theorem State.fetchWord_congr {s t : State} (hp : t.pc = s.pc) (hm : t.mem = s.mem) (hc : t.cfg = s.cfg) :
    t.fetchWord = s.fetchWord := by
  simp only [State.fetchWord, hp, State.readByte_congr hm hc]

/-! ### The stack -/

theorem State.stackAt_of_lt (s : State) (k : Nat) (h : k < 16) : s.stackAt k = s.stack[k] := by
  simp [State.stackAt, h]

/-! ### The block operands -/

theorem State.regBlock_length (s : State) (x : Reg) : (s.regBlock x).length = x.val + 1 := by
  simp only [State.regBlock, List.length_take, Vector.length_toList]; omega

theorem State.regBlock_getElem? (s : State) (x : Reg) (k : Nat) (hk : k ≤ x.val) :
    (s.regBlock x)[k]? = some (s.v[k]'(by omega)) := by
  simp [State.regBlock, Nat.lt_succ_of_le hk]

theorem bcdDigits_length (b : Byte) : (bcdDigits b).length = 3 := rfl

end Sys2Proof.Machine
end

