-- ==== Sys2Proof/Laws/Operands.lean ====
section
/-! SUPPORT. What each operand form and small computation gives, in the words the spec uses for it: joined bytes, the shift
source, differences, key lookups, skips, the timers, and the two transfers that can move I. -/

namespace Sys2Proof.Machine

/-! ### Bytes and words -/

theorem joinBytes_toNat (hi lo : Byte) : (joinBytes hi lo).toNat = hi.toNat * 256 + lo.toNat := by
  have := hi.isLt
  have := lo.isLt
  simp only [joinBytes, BitVec.toNat_ofNat]
  omega

theorem joinBytes_wordBytes (w : Word) : ∀ hi lo, wordBytes w = [hi, lo] → joinBytes hi lo = w := by
  rintro hi lo h
  cases h
  refine BitVec.eq_of_toNat_eq ?_
  have := w.isLt
  rw [joinBytes_toNat, BitVec.extractLsb'_toNat, BitVec.extractLsb'_toNat, Nat.shiftRight_eq_div_pow,
    Nat.shiftRight_eq_div_pow]
  omega

theorem addrWord_toNat (nnn : Addr12) : (addrWord nnn).toNat = nnn.toNat := by
  have := nnn.isLt
  simp only [addrWord, BitVec.toNat_ofNat]
  omega

theorem State.offsetTarget_toNat (s : State) (nnn : Addr12) : (s.offsetTarget nnn).toNat = (s.reg 0).toNat + nnn.toNat := by
  have := nnn.isLt
  have := (s.reg 0).isLt
  simp only [State.offsetTarget, BitVec.toNat_ofNat]
  omega

theorem fontAddress_toNat (cfg : Config) (d : Byte) :
    (fontAddress cfg d).toNat = fontBaseAddr cfg.fontBase + 5 * d.toNat := by
  have := d.isLt
  have : fontBaseAddr cfg.fontBase ≤ 0x050 := by cases cfg.fontBase <;> decide
  simp only [fontAddress, BitVec.toNat_ofNat]
  omega

/-! ### Arithmetic -/

theorem subByte_eq (a b : Byte) : subByte a b = a - b := by
  refine BitVec.eq_of_toNat_eq ?_
  simp only [subByte, BitVec.toNat_ofNat, BitVec.toNat_sub]
  omega

theorem State.shiftOperand_eq (s : State) (x y : Reg) :
    s.shiftOperand x y = if s.cfg.shiftSource = .vx then s.reg x else s.reg y := by
  simp only [State.shiftOperand]
  cases s.cfg.shiftSource <;> rfl

theorem countDown_toNat (t : Byte) : (countDown t).toNat = t.toNat - 1 := by revert t; decide

/-! ### Skips and the program counter -/

theorem State.skipIf_advance_pc (s : State) (c : Bool) :
    (s.advance.skipIf c).pc = if c = true then s.pc + 4 else s.pc + 2 := by
  cases c
  · rfl
  · show s.pc + 2 + 2 = s.pc + 4
    rw [BitVec.add_assoc]; rfl

/-- Stepping `pc` back after the fetch advance leaves the whole state (44_keys_timers.md R236). -/
theorem State.setPc_back (s : State) : s.advance.setPc (s.advance.pc - 2) = s := by
  simp only [State.advance, State.setPc, BitVec.add_sub_cancel]

/-! ### The stack pointer -/

theorem sp_pred_toNat (w : BitVec 8) (h : w.toNat ≠ 0) : (w - 1).toNat = w.toNat - 1 := by
  revert w; decide

theorem sp_succ_toNat (w : BitVec 8) (h : w.toNat < 16) : (w + 1).toNat = w.toNat + 1 := by
  revert w; decide

/-! ### Keys -/

theorem State.keyOf_eq (s : State) (x : Reg) :
    s.keyOf x = if (s.reg x).toNat ≤ 15 then some ((s.keys[(s.reg x).toNat]?).getD false) else none := by
  unfold State.keyOf
  split
  · rename_i h
    rw [Vector.getElem?_eq_getElem (by omega)]; rfl
  · rename_i h
    exact Vector.getElem?_eq_none (by omega)

theorem lowestKey_none (ks : Vector Bool 16) : lowestKey ks = none ↔ ∀ k : Reg, ks[k] = false := by
  simp [lowestKey]

theorem lowestKey_some (ks : Vector Bool 16) (k : Reg) :
    lowestKey ks = some k ↔ ks[k] = true ∧ ∀ j < k, ks[j] = false := by
  unfold lowestKey
  rw [List.find?_eq_some_iff_getElem]
  constructor
  · rintro ⟨h, i, hi, he, hj⟩
    simp only [List.getElem_finRange, Fin.cast_mk] at he
    subst he
    exact ⟨h, fun j hj' => by simpa using hj j.val hj'⟩
  · rintro ⟨h, hj⟩
    exact ⟨h, k.val, by simp, by simp, fun j hj' => by simpa using hj ⟨j, by omega⟩ hj'⟩

/-! ### Transfers -/

/-- With `LOAD_STORE_INCREMENT = none` a register block transfer leaves `I` (43_index_memory.md R216). -/
theorem State.advanceIndex_none (s : State) (x : Reg) (h : s.cfg.loadStoreIncrement = .none) : s.advanceIndex x = s := by
  simp only [State.advanceIndex, h]

/-- With `x_plus_1` it moves `I` by `x + 1` (R216). -/
theorem State.advanceIndex_xPlusOne (s : State) (x : Reg) (h : s.cfg.loadStoreIncrement = .xPlusOne) :
    s.advanceIndex x = s.setIndex (BitVec.ofNat 16 (s.index.toNat + x.val + 1)) := by
  simp only [State.advanceIndex, h]

/-- The index advance changes `I` only. -/
theorem State.advanceIndex_eq (s : State) (x : Reg) : s.advanceIndex x = s.setIndex (s.advanceIndex x).index := by
  unfold State.advanceIndex
  split <;> rfl

/-- Stores change memory only. -/
theorem State.storeFrom_eq (s : State) (a : Nat) (bs : List Byte) :
    s.storeFrom a bs = { s with mem := (s.storeFrom a bs).mem } := by
  induction bs generalizing s a with
  | nil => rfl
  | cons b bs ih => simp only [State.storeFrom]; rw [ih]; rfl

end Sys2Proof.Machine
end

