-- ==== Sys2Proof/Laws/Execute.lean ====
section
/-! SUPPORT. What each instruction that can fault answers, as one case split on the start of its step; every other
instruction answers its completed state by definition. -/

namespace Sys2Proof.Machine

theorem exec_ret (s : State) :
    exec .ret s = if s.sp.toNat = 0 then .next (s.raise .stackUnderflow)
      else if s.sp.toNat ≤ 16 then .next s.advance.popPc else .fault .stackPointerOutOfRange := rfl

theorem exec_call (nnn : Addr12) (s : State) :
    exec (.call nnn) s = if s.sp.toNat = 16 then .next (s.raise .stackOverflow)
      else if s.sp.toNat < 16 then .next ((s.advance.push s.advance.pc).setPc (addrWord nnn))
      else .fault .stackPointerOutOfRange := rfl

theorem exec_draw (x y : Reg) (n : Nibble) (s : State) :
    exec (.draw x y n) s = if n.toNat = 0 ∨ s.ea + n.toNat - 1 < 0x1000 then
        .next ((s.advance.setFb
          (drawRows s.cfg.spriteEdge (s.originX x) (s.originY y) (s.bytesFrom s.ea n.toNat) (s.fb, false)).1).setReg 15
          (collisionFlag
            (drawRows s.cfg.spriteEdge (s.originX x) (s.originY y) (s.bytesFrom s.ea n.toNat) (s.fb, false)).2)).markDirty
      else .next (s.raise .outOfBoundsAccess) := by
  simp only [exec, execDraw, State.readBytes_eq]
  by_cases hc : n.toNat = 0 ∨ s.ea + n.toNat - 1 < 0x1000
  · rw [if_pos hc, if_pos hc]
  · rw [if_neg hc, if_neg hc]

theorem exec_loadFontAddress (x : Reg) (s : State) :
    exec (.loadFontAddress x) s = if (s.reg x).toNat > 15 then .next (s.raise .outOfBoundsAccess)
      else .next (s.advance.setIndex (fontAddress s.cfg (s.reg x))) := rfl

theorem exec_storeBcd (x : Reg) (s : State) :
    exec (.storeBcd x) s = if s.ea + 2 < 0x1000 ∧ ¬(s.cfg.protectReserved = true ∧ s.ea ≤ 0x1FF) then
        .next (s.advance.storeFrom s.ea (bcdDigits (s.reg x)))
      else .next (s.raise .outOfBoundsAccess) := by
  have h := State.writeBytes_eq s.advance s.ea (bcdDigits (s.reg x)) (by simp [bcdDigits_length])
  rw [bcdDigits_length] at h
  rw [show s.ea + 3 - 1 = s.ea + 2 by omega, State.advance_cfg] at h
  simp only [exec, execStoreBcd, h]
  by_cases hc : s.ea + 2 < 0x1000 ∧ ¬(s.cfg.protectReserved = true ∧ s.ea ≤ 0x1FF)
  · rw [if_pos hc, if_pos hc]
  · rw [if_neg hc, if_neg hc]

theorem exec_storeRegisters (x : Reg) (s : State) :
    exec (.storeRegisters x) s = if s.ea + x.val < 0x1000 ∧ ¬(s.cfg.protectReserved = true ∧ s.ea ≤ 0x1FF) then
        .next ((s.advance.storeFrom s.ea (s.regBlock x)).advanceIndex x)
      else .next (s.raise .outOfBoundsAccess) := by
  have h := State.writeBytes_eq s.advance s.ea (s.regBlock x) (by simp [State.regBlock_length])
  rw [State.regBlock_length, show s.ea + (x.val + 1) - 1 = s.ea + x.val by omega, State.advance_cfg] at h
  simp only [exec, execStoreRegisters, h]
  by_cases hc : s.ea + x.val < 0x1000 ∧ ¬(s.cfg.protectReserved = true ∧ s.ea ≤ 0x1FF)
  · rw [if_pos hc, if_pos hc]
  · rw [if_neg hc, if_neg hc]

theorem exec_loadRegisters (x : Reg) (s : State) :
    exec (.loadRegisters x) s = if s.ea + x.val < 0x1000 then
        .next ((s.advance.setRegs (s.bytesFrom s.ea (x.val + 1))).advanceIndex x)
      else .next (s.raise .outOfBoundsAccess) := by
  have h := State.readBytes_eq s s.ea (x.val + 1)
  rw [show s.ea + (x.val + 1) - 1 = s.ea + x.val by omega] at h
  simp only [exec, execLoadRegisters, h, Nat.succ_ne_zero, false_or]
  by_cases hc : s.ea + x.val < 0x1000
  · rw [if_pos hc, if_pos hc]
  · rw [if_neg hc, if_neg hc]

theorem exec_skipIfKeyPressed (x : Reg) (s : State) :
    exec (.skipIfKeyPressed x) s = if (s.reg x).toNat ≤ 15 then
        .next (s.advance.skipIf ((s.keys[(s.reg x).toNat]?).getD false))
      else .next (s.raise .invalidKeyIndex) := by
  simp only [exec, execSkipIfKeyPressed, State.keyOf_eq]
  by_cases hc : (s.reg x).toNat ≤ 15
  · rw [if_pos hc, if_pos hc]
  · rw [if_neg hc, if_neg hc]

theorem exec_skipIfKeyNotPressed (x : Reg) (s : State) :
    exec (.skipIfKeyNotPressed x) s = if (s.reg x).toNat ≤ 15 then
        .next (s.advance.skipIf !((s.keys[(s.reg x).toNat]?).getD false))
      else .next (s.raise .invalidKeyIndex) := by
  simp only [exec, execSkipIfKeyNotPressed, State.keyOf_eq]
  by_cases hc : (s.reg x).toNat ≤ 15
  · rw [if_pos hc, if_pos hc]
  · rw [if_neg hc, if_neg hc]

/-- `wait-for-key` with no key pressed leaves the whole state; else it takes the lowest (44_keys_timers.md R236). -/
theorem exec_waitForKey (x : Reg) (s : State) :
    exec (.waitForKey x) s = .next (match lowestKey s.keys with
      | none => s
      | some k => s.advance.setReg x (keyByte k)) := by
  simp only [exec, execWaitForKey, State.setPc_back]
  cases lowestKey s.keys <;> rfl

end Sys2Proof.Machine
end

