-- ==== Sys2Proof/Laws/PerInstr.lean ====
section
/-! SUPPORT. One lemma per constructor: the word the encoder writes for the instruction is admitted by the instruction's row of
the opcode table in both decoder modes, and the row builds the instruction back from the word's fields. -/

namespace Sys2Proof.Laws.EncodeMatchesTable

/-- Some row of the table admits the instruction's word in both modes and builds the instruction from it. -/
def Statement (i : Instr) : Prop :=
  ∃ (k : Fin 34) (r : Row), opcodeRows[k.val]? = some r ∧ rowAdmits false (encode i) r = true ∧
    rowAdmits true (encode i) r = true ∧ r.build (encode i) = i

theorem clearScreen : Statement .clearScreen :=
  ⟨0, _, rfl, rfl, rfl, rfl⟩

theorem ret : Statement .ret :=
  ⟨1, _, rfl, rfl, rfl, rfl⟩

theorem jump (nnn : Addr12) : Statement (.jump nnn) :=
  ⟨2, _, rfl, by simp only [rowAdmits, encode, group_wordNnn]; rfl, by simp only [rowAdmits, encode, group_wordNnn]; rfl,
    by simp only [encode, fieldNnn_wordNnn]⟩

theorem call (nnn : Addr12) : Statement (.call nnn) :=
  ⟨3, _, rfl, by simp only [rowAdmits, encode, group_wordNnn]; rfl, by simp only [rowAdmits, encode, group_wordNnn]; rfl,
    by simp only [encode, fieldNnn_wordNnn]⟩

theorem skipIfEqualImmediate (x : Reg) (kk : Byte) : Statement (.skipIfEqualImmediate x kk) :=
  ⟨4, _, rfl, by simp only [rowAdmits, encode, group_wordXkk]; rfl, by simp only [rowAdmits, encode, group_wordXkk]; rfl,
    by simp only [encode, fieldX_wordXkk, fieldKk_wordXkk]⟩

theorem skipIfNotEqualImmediate (x : Reg) (kk : Byte) : Statement (.skipIfNotEqualImmediate x kk) :=
  ⟨5, _, rfl, by simp only [rowAdmits, encode, group_wordXkk]; rfl, by simp only [rowAdmits, encode, group_wordXkk]; rfl,
    by simp only [encode, fieldX_wordXkk, fieldKk_wordXkk]⟩

theorem skipIfEqualRegisters (x y : Reg) : Statement (.skipIfEqualRegisters x y) :=
  ⟨6, _, rfl, by simp only [rowAdmits, encode, group_wordXyn]; rfl, by simp only [rowAdmits, encode, lowNibble_wordXyn]; rfl,
    by simp only [encode, fieldX_wordXyn, fieldY_wordXyn]⟩

theorem skipIfNotEqualRegisters (x y : Reg) : Statement (.skipIfNotEqualRegisters x y) :=
  ⟨7, _, rfl, by simp only [rowAdmits, encode, group_wordXyn]; rfl, by simp only [rowAdmits, encode, lowNibble_wordXyn]; rfl,
    by simp only [encode, fieldX_wordXyn, fieldY_wordXyn]⟩

theorem loadImmediate (x : Reg) (kk : Byte) : Statement (.loadImmediate x kk) :=
  ⟨8, _, rfl, by simp only [rowAdmits, encode, group_wordXkk]; rfl, by simp only [rowAdmits, encode, group_wordXkk]; rfl,
    by simp only [encode, fieldX_wordXkk, fieldKk_wordXkk]⟩

theorem addImmediate (x : Reg) (kk : Byte) : Statement (.addImmediate x kk) :=
  ⟨9, _, rfl, by simp only [rowAdmits, encode, group_wordXkk]; rfl, by simp only [rowAdmits, encode, group_wordXkk]; rfl,
    by simp only [encode, fieldX_wordXkk, fieldKk_wordXkk]⟩

theorem aluLoad (x y : Reg) : Statement (.aluLoad x y) :=
  ⟨10, _, rfl, by simp only [rowAdmits, encode, lowNibble_wordXyn]; rfl, by simp only [rowAdmits, encode, lowNibble_wordXyn]; rfl,
    by simp only [encode, fieldX_wordXyn, fieldY_wordXyn]⟩

theorem aluOr (x y : Reg) : Statement (.aluOr x y) :=
  ⟨11, _, rfl, by simp only [rowAdmits, encode, lowNibble_wordXyn]; rfl, by simp only [rowAdmits, encode, lowNibble_wordXyn]; rfl,
    by simp only [encode, fieldX_wordXyn, fieldY_wordXyn]⟩

theorem aluAnd (x y : Reg) : Statement (.aluAnd x y) :=
  ⟨12, _, rfl, by simp only [rowAdmits, encode, lowNibble_wordXyn]; rfl, by simp only [rowAdmits, encode, lowNibble_wordXyn]; rfl,
    by simp only [encode, fieldX_wordXyn, fieldY_wordXyn]⟩

theorem aluXor (x y : Reg) : Statement (.aluXor x y) :=
  ⟨13, _, rfl, by simp only [rowAdmits, encode, lowNibble_wordXyn]; rfl, by simp only [rowAdmits, encode, lowNibble_wordXyn]; rfl,
    by simp only [encode, fieldX_wordXyn, fieldY_wordXyn]⟩

theorem aluAdd (x y : Reg) : Statement (.aluAdd x y) :=
  ⟨14, _, rfl, by simp only [rowAdmits, encode, lowNibble_wordXyn]; rfl, by simp only [rowAdmits, encode, lowNibble_wordXyn]; rfl,
    by simp only [encode, fieldX_wordXyn, fieldY_wordXyn]⟩

theorem aluSub (x y : Reg) : Statement (.aluSub x y) :=
  ⟨15, _, rfl, by simp only [rowAdmits, encode, lowNibble_wordXyn]; rfl, by simp only [rowAdmits, encode, lowNibble_wordXyn]; rfl,
    by simp only [encode, fieldX_wordXyn, fieldY_wordXyn]⟩

theorem aluShr (x y : Reg) : Statement (.aluShr x y) :=
  ⟨16, _, rfl, by simp only [rowAdmits, encode, lowNibble_wordXyn]; rfl, by simp only [rowAdmits, encode, lowNibble_wordXyn]; rfl,
    by simp only [encode, fieldX_wordXyn, fieldY_wordXyn]⟩

theorem aluSubn (x y : Reg) : Statement (.aluSubn x y) :=
  ⟨17, _, rfl, by simp only [rowAdmits, encode, lowNibble_wordXyn]; rfl, by simp only [rowAdmits, encode, lowNibble_wordXyn]; rfl,
    by simp only [encode, fieldX_wordXyn, fieldY_wordXyn]⟩

theorem aluShl (x y : Reg) : Statement (.aluShl x y) :=
  ⟨18, _, rfl, by simp only [rowAdmits, encode, lowNibble_wordXyn]; rfl, by simp only [rowAdmits, encode, lowNibble_wordXyn]; rfl,
    by simp only [encode, fieldX_wordXyn, fieldY_wordXyn]⟩

theorem loadIndex (nnn : Addr12) : Statement (.loadIndex nnn) :=
  ⟨19, _, rfl, by simp only [rowAdmits, encode, group_wordNnn]; rfl, by simp only [rowAdmits, encode, group_wordNnn]; rfl,
    by simp only [encode, fieldNnn_wordNnn]⟩

theorem jumpOffset (nnn : Addr12) : Statement (.jumpOffset nnn) :=
  ⟨20, _, rfl, by simp only [rowAdmits, encode, group_wordNnn]; rfl, by simp only [rowAdmits, encode, group_wordNnn]; rfl,
    by simp only [encode, fieldNnn_wordNnn]⟩

theorem random (x : Reg) (kk : Byte) : Statement (.random x kk) :=
  ⟨21, _, rfl, by simp only [rowAdmits, encode, group_wordXkk]; rfl, by simp only [rowAdmits, encode, group_wordXkk]; rfl,
    by simp only [encode, fieldX_wordXkk, fieldKk_wordXkk]⟩

theorem draw (x y : Reg) (n : Nibble) : Statement (.draw x y n) :=
  ⟨22, _, rfl, by simp only [rowAdmits, encode, group_wordXyn]; rfl, by simp only [rowAdmits, encode, group_wordXyn]; rfl,
    by simp only [encode, fieldX_wordXyn, fieldY_wordXyn, fieldN_wordXyn]⟩

theorem skipIfKeyPressed (x : Reg) : Statement (.skipIfKeyPressed x) :=
  ⟨23, _, rfl, by simp only [rowAdmits, encode, lowNibble_wordXkk]; rfl, by simp only [rowAdmits, encode, lowByte_wordXkk]; rfl,
    by simp only [encode, fieldX_wordXkk]⟩

theorem skipIfKeyNotPressed (x : Reg) : Statement (.skipIfKeyNotPressed x) :=
  ⟨24, _, rfl, by simp only [rowAdmits, encode, lowNibble_wordXkk]; rfl, by simp only [rowAdmits, encode, lowByte_wordXkk]; rfl,
    by simp only [encode, fieldX_wordXkk]⟩

theorem loadDelayTimer (x : Reg) : Statement (.loadDelayTimer x) :=
  ⟨25, _, rfl, by simp only [rowAdmits, encode, lowByte_wordXkk]; rfl, by simp only [rowAdmits, encode, lowByte_wordXkk]; rfl,
    by simp only [encode, fieldX_wordXkk]⟩

theorem waitForKey (x : Reg) : Statement (.waitForKey x) :=
  ⟨26, _, rfl, by simp only [rowAdmits, encode, lowByte_wordXkk]; rfl, by simp only [rowAdmits, encode, lowByte_wordXkk]; rfl,
    by simp only [encode, fieldX_wordXkk]⟩

theorem setDelayTimer (x : Reg) : Statement (.setDelayTimer x) :=
  ⟨27, _, rfl, by simp only [rowAdmits, encode, lowByte_wordXkk]; rfl, by simp only [rowAdmits, encode, lowByte_wordXkk]; rfl,
    by simp only [encode, fieldX_wordXkk]⟩

theorem setSoundTimer (x : Reg) : Statement (.setSoundTimer x) :=
  ⟨28, _, rfl, by simp only [rowAdmits, encode, lowByte_wordXkk]; rfl, by simp only [rowAdmits, encode, lowByte_wordXkk]; rfl,
    by simp only [encode, fieldX_wordXkk]⟩

theorem addToIndex (x : Reg) : Statement (.addToIndex x) :=
  ⟨29, _, rfl, by simp only [rowAdmits, encode, lowByte_wordXkk]; rfl, by simp only [rowAdmits, encode, lowByte_wordXkk]; rfl,
    by simp only [encode, fieldX_wordXkk]⟩

theorem loadFontAddress (x : Reg) : Statement (.loadFontAddress x) :=
  ⟨30, _, rfl, by simp only [rowAdmits, encode, lowByte_wordXkk]; rfl, by simp only [rowAdmits, encode, lowByte_wordXkk]; rfl,
    by simp only [encode, fieldX_wordXkk]⟩

theorem storeBcd (x : Reg) : Statement (.storeBcd x) :=
  ⟨31, _, rfl, by simp only [rowAdmits, encode, lowByte_wordXkk]; rfl, by simp only [rowAdmits, encode, lowByte_wordXkk]; rfl,
    by simp only [encode, fieldX_wordXkk]⟩

theorem storeRegisters (x : Reg) : Statement (.storeRegisters x) :=
  ⟨32, _, rfl, by simp only [rowAdmits, encode, lowByte_wordXkk]; rfl, by simp only [rowAdmits, encode, lowByte_wordXkk]; rfl,
    by simp only [encode, fieldX_wordXkk]⟩

theorem loadRegisters (x : Reg) : Statement (.loadRegisters x) :=
  ⟨33, _, rfl, by simp only [rowAdmits, encode, lowByte_wordXkk]; rfl, by simp only [rowAdmits, encode, lowByte_wordXkk]; rfl,
    by simp only [encode, fieldX_wordXkk]⟩

end Sys2Proof.Laws.EncodeMatchesTable
end

