-- ==== Sys2Proof/Laws/Step.lean ====
section
/-! SUPPORT. What one step of the machine can do, said once: which agent moved, and for an instruction step which of fetch
fault, unknown word, or instruction it was. -/

namespace Sys2Proof.Machine

/-- What an instruction step, from the state at its start, answers. -/
theorem runInstruction_cases (s : State) (o : Result) (h : runInstruction s = o) :
    (s.fetchWord = none ∧ o = .next (s.raise .outOfBoundsAccess)) ∨
    (∃ w, s.fetchWord = some w ∧ decode s.cfg.decodeStrict w = .unknown w ∧ o = .next (s.raise .unknownOpcode)) ∨
    (∃ w i, s.fetchWord = some w ∧ decode s.cfg.decodeStrict w = .known i ∧ o = exec i s) := by
  unfold runInstruction at h
  split at h
  · exact .inl ⟨by assumption, h.symm⟩
  · rename_i w hw
    split at h
    · rename_i w' hd
      have : w' = w := by
        unfold decode at hd
        split at hd
        · cases hd
        · cases hd; rfl
      subst this
      exact .inr (.inl ⟨_, hw, hd, h.symm⟩)
    · rename_i i hd
      exact .inr (.inr ⟨w, i, hw, hd, h.symm⟩)

/-- What a step answers, by the agent whose turn it is (R65). -/
theorem step_cases (s : State) (o : Result) (h : step s = o) :
    (s.nextEvent = .issue ∧ s.status = .running ∧ o = runInstruction s.popEvent.beginStep) ∨
    (s.nextEvent = .issue ∧ s.status ≠ .running ∧ o = .next s.popEvent.ignorePulse) ∨
    (s.nextEvent = .tick ∧ o = .next s.popEvent.tick) ∨
    (∃ ks, s.nextEvent = .keyWrite ks ∧ o = .next (s.popEvent.keyWrite ks)) ∨
    (s.nextEvent = .displayRead ∧ o = .next s.popEvent.displayRead) ∨
    (∃ cfg rom, s.nextEvent = .romLoad cfg rom ∧ o = .next (s.popEvent.romLoad cfg rom)) := by
  unfold step at h
  cases he : s.nextEvent with
  | issue =>
    rw [he] at h
    simp only [act, issue, State.popEvent_status] at h
    cases hs : s.status with
    | running => rw [hs] at h; exact .inl ⟨rfl, rfl, h.symm⟩
    | idle => rw [hs] at h; exact .inr (.inl ⟨rfl, by simp, h.symm⟩)
    | faulted => rw [hs] at h; exact .inr (.inl ⟨rfl, by simp, h.symm⟩)
  | tick => rw [he] at h; exact .inr (.inr (.inl ⟨rfl, h.symm⟩))
  | keyWrite ks => rw [he] at h; exact .inr (.inr (.inr (.inl ⟨ks, rfl, h.symm⟩)))
  | displayRead => rw [he] at h; exact .inr (.inr (.inr (.inr (.inl ⟨rfl, h.symm⟩))))
  | romLoad cfg rom => rw [he] at h; exact .inr (.inr (.inr (.inr (.inr ⟨cfg, rom, rfl, h.symm⟩))))

/-- The outcomes of a ROM load (R300, R302). -/
theorem State.romLoad_cases (s : State) (cfg : Config) (rom : List Byte) :
    (rom.length ≤ romMax ∧ s.romLoad cfg rom = s.reload cfg rom) ∨
    (romMax < rom.length ∧ s.romLoad cfg rom = { s with reply := .rejected .romTooLarge }) := by
  unfold State.romLoad
  split
  · rename_i h; exact .inl ⟨by simpa [romWellFormed] using h, rfl⟩
  · rename_i h; exact .inr ⟨by simpa [romWellFormed] using h, rfl⟩

/-- What every byte of memory reads as after a load: the ROM where it lies, reset contents elsewhere (R300, R301). -/
theorem State.readByte_reload (s : State) (cfg : Config) (rom : List Byte) (a : Nat) :
    (s.reload cfg rom).readByte a =
      if 0x200 ≤ a ∧ a < 0x200 + rom.length then (rom[a - 0x200]?).getD 0 else unlisted cfg a :=
  Memory.read_ofBytes cfg 0x200 rom a

end Sys2Proof.Machine
end

