-- ==== Sys2Proof/Tests/Slice0.lean ====
section
/-! SUPPORT. Tests and witnesses. The decode words are written out from the patterns of 30_encoding.md R85 and the table L2.1
of 95_test_vectors.md; the one-step tests take their start states and results from the numbered vectors L1 and L2 of that
file. Each witness shows a concrete state and operands that meet all the hypotheses of one obligation together. -/

namespace Sys2Proof.Tests

open Sys2Proof Sys2Proof.Machine Sys2Proof.Claims

/-! ### Helpers -/

/-- Whether an outcome is a next state that passes a check. -/
def after (o : Result) (p : State → Bool) : Bool :=
  match o with
  | .next t => p t
  | _ => false

theorem after_next {o : Result} {p : State → Bool} (h : after o p = true) : ∃ t, o = .next t ∧ p t = true := by
  cases o with
  | next t => exact ⟨t, rfl, h⟩
  | fault _ => cases h
  | refused _ => cases h

/-- The state after reset with some registers set. -/
def regs (rs : List (Reg × Byte)) : State := rs.foldl (fun s r => s.setReg r.1 r.2) State.reset

/-- A state at another address. -/
def atPc (pc : Word) (s : State) : State := { s with pc := pc }

/-- A state with another index register. -/
def atIndex (w : Word) (s : State) : State := { s with index := w }

/-- A state with a byte of memory set. -/
def poke (a : Nat) (b : Byte) (s : State) : State := s.writeByte a b

/-- A state under other parameters. -/
def under (f : Config → Config) (s : State) : State := { s with cfg := f s.cfg }

/-- A state in which the host holds some keys down. -/
def holding (ks : List Reg) (s : State) : State :=
  { s with keyState := ks.foldl (fun (v : Vector Bool 16) (k : Reg) => v.set k true) (Vector.replicate 16 false) }

/-- A state whose framebuffer has some pixels on. -/
def lit (ps : List (Fin 64 × Fin 32)) (s : State) : State :=
  { s with fb := ps.foldl (fun fb p => togglePixel fb p.1 p.2) clearFb }

/-- A state with a stack of `n` entries in use. -/
def stacked (n : BitVec 8) (s : State) : State := { s with sp := n }

/-- One step from the state with a word placed at `pc`. -/
def run (w : Nat) (s : State) : Result := step (s.withFetchWord 16 w)

/-- Whether a step faulted at an address with a code and a word, with `pc` still at it. -/
def faulted (code : BitVec 3) (pc w : Word) (t : State) : Bool :=
  decide (t.status = .faulted ∧ t.faultCode = code ∧ t.faultPc = pc ∧ t.faultWord = w ∧ t.pc = pc)

/-- Whether exactly the given pixels are on. -/
def shows (ps : List (Fin 64 × Fin 32)) (t : State) : Bool :=
  decide (t.fb = ps.foldl (fun fb p => togglePixel fb p.1 p.2) clearFb)

/-! ### WellFormed -/

/-- A ROM of 3585 bytes is refused (L1.9). -/
theorem test_wellformed_refuses_large_rom : romWellFormed (List.replicate 3585 0) = false := by
  simp only [romWellFormed, List.length_replicate]; decide

/-- A ROM of 3584 bytes is accepted (L1.9). -/
theorem test_wellformed_accepts_largest_rom : romWellFormed (List.replicate 3584 0) = true := by
  simp only [romWellFormed, List.length_replicate]; decide

/-! ### Decoding: one word per constructor, from the patterns of R85 -/

theorem test_decode_clearScreen : decodeTableWord 16 0x00E0 = some .clearScreen := by decide
theorem test_decode_ret : decodeTableWord 16 0x00EE = some .ret := by decide
theorem test_decode_jump : decodeTableWord 16 0x1ABC = some (.jump 0xABC) := by decide
theorem test_decode_call : decodeTableWord 16 0x2F01 = some (.call 0xF01) := by decide
theorem test_decode_skipIfEqualImmediate : decodeTableWord 16 0x3A7E = some (.skipIfEqualImmediate 10 0x7E) := by decide
theorem test_decode_skipIfNotEqualImmediate :
    decodeTableWord 16 0x4B81 = some (.skipIfNotEqualImmediate 11 0x81) := by decide
theorem test_decode_skipIfEqualRegisters : decodeTableWord 16 0x5120 = some (.skipIfEqualRegisters 1 2) := by decide
theorem test_decode_skipIfNotEqualRegisters : decodeTableWord 16 0x9AB0 = some (.skipIfNotEqualRegisters 10 11) := by decide
theorem test_decode_loadImmediate : decodeTableWord 16 0x6F42 = some (.loadImmediate 15 0x42) := by decide
theorem test_decode_addImmediate : decodeTableWord 16 0x71FF = some (.addImmediate 1 0xFF) := by decide
theorem test_decode_aluLoad : decodeTableWord 16 0x8120 = some (.aluLoad 1 2) := by decide
theorem test_decode_aluOr : decodeTableWord 16 0x83C1 = some (.aluOr 3 12) := by decide
theorem test_decode_aluAnd : decodeTableWord 16 0x8452 = some (.aluAnd 4 5) := by decide
theorem test_decode_aluXor : decodeTableWord 16 0x8673 = some (.aluXor 6 7) := by decide
theorem test_decode_aluAdd : decodeTableWord 16 0x8F14 = some (.aluAdd 15 1) := by decide
theorem test_decode_aluSub : decodeTableWord 16 0x8125 = some (.aluSub 1 2) := by decide
theorem test_decode_aluShr : decodeTableWord 16 0x89A6 = some (.aluShr 9 10) := by decide
theorem test_decode_aluSubn : decodeTableWord 16 0x8BC7 = some (.aluSubn 11 12) := by decide
theorem test_decode_aluShl : decodeTableWord 16 0x812E = some (.aluShl 1 2) := by decide
theorem test_decode_loadIndex : decodeTableWord 16 0xA123 = some (.loadIndex 0x123) := by decide
theorem test_decode_jumpOffset : decodeTableWord 16 0xB300 = some (.jumpOffset 0x300) := by decide
theorem test_decode_random : decodeTableWord 16 0xC10F = some (.random 1 0x0F) := by decide
theorem test_decode_draw : decodeTableWord 16 0xD12F = some (.draw 1 2 15) := by decide
theorem test_decode_skipIfKeyPressed : decodeTableWord 16 0xE79E = some (.skipIfKeyPressed 7) := by decide
theorem test_decode_skipIfKeyNotPressed : decodeTableWord 16 0xEFA1 = some (.skipIfKeyNotPressed 15) := by decide
theorem test_decode_loadDelayTimer : decodeTableWord 16 0xF207 = some (.loadDelayTimer 2) := by decide
theorem test_decode_waitForKey : decodeTableWord 16 0xF20A = some (.waitForKey 2) := by decide
theorem test_decode_setDelayTimer : decodeTableWord 16 0xF315 = some (.setDelayTimer 3) := by decide
theorem test_decode_setSoundTimer : decodeTableWord 16 0xF418 = some (.setSoundTimer 4) := by decide
theorem test_decode_addToIndex : decodeTableWord 16 0xF51E = some (.addToIndex 5) := by decide
theorem test_decode_loadFontAddress : decodeTableWord 16 0xF629 = some (.loadFontAddress 6) := by decide
theorem test_decode_storeBcd : decodeTableWord 16 0xF733 = some (.storeBcd 7) := by decide
theorem test_decode_storeRegisters : decodeTableWord 16 0xF855 = some (.storeRegisters 8) := by decide
theorem test_decode_loadRegisters : decodeTableWord 16 0xF965 = some (.loadRegisters 9) := by decide

/-- The words of L2.1 that the two modes read differently. -/
theorem test_decode_strict_differs :
    decode false 0x0000 = .known .clearScreen ∧ decode true 0x0000 = .unknown 0x0000 ∧
      decode false 0x9AB3 = .known (.skipIfNotEqualRegisters 10 11) ∧ decode true 0x9AB3 = .unknown 0x9AB3 ∧
      decode false 0xE011 = .known (.skipIfKeyNotPressed 0) ∧ decode true 0xE011 = .unknown 0xE011 := by decide

/-- The unknown words of L2.1. -/
theorem test_decode_unknown :
    decode false 0x0001 = .unknown 0x0001 ∧ decode false 0x8008 = .unknown 0x8008 ∧ decode false 0x800F = .unknown 0x800F ∧
      decode false 0xE002 = .unknown 0xE002 ∧ decode false 0xF000 = .unknown 0xF000 ∧
      decode false 0xF0FF = .unknown 0xF0FF := by decide

/-- Bytes: high byte first (L2.1), the rest handed back, one byte alone refused by name (R89). -/
theorem test_decode_bytes :
    decodeBytes false [0xA1, 0x23, 0x77] = .ok (.loadIndex 0x123, [0x77]) ∧ decodeBytes false [0xA1] = .error .truncated := ⟨rfl, rfl⟩

/-- The encoder's words for one instruction of each word format, from the patterns of R85. -/
theorem test_encode :
    encode .ret = 0x00EE ∧ encode (.call 0xF01) = 0x2F01 ∧ encode (.random 12 0x3D) = 0xCC3D ∧
      encode (.aluShl 1 2) = 0x812E ∧ encode (.draw 1 2 15) = 0xD12F ∧ encode (.storeRegisters 8) = 0xF855 := by decide

/-! ### Fetch and control flow (L2.1, L2.2) -/

/-- An unknown word is precise (L2.1). -/
theorem test_unknown_word : after (run 0x8008 State.reset) (faulted 1 0x200 0x8008) = true := by decide

/-- The last legal fetch is at 0xFFE (L2.2 #3). -/
theorem test_fetch_last : after (run 0x1200 (atPc 0xFFE State.reset)) (fun t => decide (t.pc = 0x200)) = true := by decide

/-- A fetch at 0xFFF faults with word 0 (L2.2 #2). -/
theorem test_fetch_past_end : after (step (atPc 0xFFF State.reset)) (faulted 4 0xFFF 0x0000) = true := by decide

/-- L2.2 #22: a self-loop at an odd address. -/
theorem test_jump_odd : after (run 0x1201 (atPc 0x201 State.reset)) (fun t => decide (t.pc = 0x201 ∧ t.status = .running)) = true := by
  decide

/-- L2.2 #4. -/
theorem test_call_last_entry : after (run 0x2ABC (stacked 15 State.reset))
    (fun t => decide (t.stack[15] = 0x202 ∧ t.sp = 16 ∧ t.pc = 0xABC)) = true := by decide

/-- L2.2 #5. -/
theorem test_call_overflow : after (run 0x2ABC (stacked 16 State.reset))
    (fun t => faulted 2 0x200 0x2ABC t && decide (t.sp = 16 ∧ t.stack = State.reset.stack)) = true := by decide

/-- L2.2 #6: the popped entry stays. -/
theorem test_return : after (run 0x00EE { stacked 2 (atPc 0x400 State.reset) with stack := State.reset.stack.set 1 0x234 })
    (fun t => decide (t.sp = 1 ∧ t.pc = 0x234 ∧ t.stack[1] = 0x234)) = true := by decide

/-- L2.2 #7. -/
theorem test_return_underflow : after (run 0x00EE (atPc 0x400 State.reset)) (faulted 3 0x400 0x00EE) = true := by decide

/-- L2.2 #9 and #10. -/
theorem test_skip_equal_immediate :
    after (run 0x3312 (atPc 0x300 (regs [(3, 0x12)]))) (fun t => decide (t.pc = 0x304)) = true ∧
      after (run 0x3312 (atPc 0x300 (regs [(3, 0x13)]))) (fun t => decide (t.pc = 0x302)) = true := by decide

/-- L2.2 #11 and #12. -/
theorem test_skip_not_equal_immediate :
    after (run 0x4312 (atPc 0x300 (regs [(3, 0x12)]))) (fun t => decide (t.pc = 0x302)) = true ∧
      after (run 0x4312 (atPc 0x300 (regs [(3, 0x00)]))) (fun t => decide (t.pc = 0x304)) = true := by decide

/-- L2.2 #13 and #14. -/
theorem test_skip_equal_registers :
    after (run 0x5120 (regs [(1, 7), (2, 7)])) (fun t => decide (t.pc = 0x204)) = true ∧
      after (run 0x5110 (regs [(1, 9)])) (fun t => decide (t.pc = 0x204)) = true := by decide

/-- L2.2 #15 and #16. -/
theorem test_skip_not_equal_registers :
    after (run 0x9110 (regs [(1, 9)])) (fun t => decide (t.pc = 0x202)) = true ∧
      after (run 0x9120 (regs [(1, 7), (2, 8)])) (fun t => decide (t.pc = 0x204)) = true := by decide

/-- L2.2 #17: a skip past the end is no fault of its own. -/
theorem test_skip_past_end : after (run 0x3000 (atPc 0xFFC State.reset))
    (fun t => decide (t.pc = 0x1000 ∧ t.status = .running)) = true := by decide

/-- L2.2 #21: only `V[0]` is used. -/
theorem test_jump_offset_v0 : after (run 0xB300 (regs [(0, 5), (3, 0x80)])) (fun t => decide (t.pc = 0x305)) = true := by decide

/-- L2.2 #19: the sum is not masked. -/
theorem test_jump_offset_top : after (run 0xBFFF (regs [(0, 0xFF)])) (fun t => decide (t.pc = 0x10FE)) = true := by decide

/-! ### Loads, arithmetic and logic (L2.3) -/

/-- L2.3 #2. -/
theorem test_load_immediate_f : after (run 0x6F42 State.reset) (fun t => decide (t.reg 15 = 0x42 ∧ t.pc = 0x202)) = true := by decide

/-- L2.3 #3: no flag. -/
theorem test_add_immediate_wraps : after (run 0x7001 (regs [(0, 0xFF), (15, 0x07)]))
    (fun t => decide (t.reg 0 = 0 ∧ t.reg 15 = 0x07)) = true := by decide

/-- L2.3 #6. -/
theorem test_alu_load : after (run 0x8120 (regs [(2, 9)])) (fun t => decide (t.reg 1 = 9 ∧ t.reg 2 = 9)) = true := by decide

/-- L2.3 #7: register 15 untouched. -/
theorem test_alu_or : after (run 0x8121 (regs [(1, 0x0F), (2, 0xF0), (15, 0x07)]))
    (fun t => decide (t.reg 1 = 0xFF ∧ t.reg 15 = 0x07)) = true := by decide

/-- L2.3 #8. -/
theorem test_alu_and : after (run 0x8122 (regs [(1, 0x3C), (2, 0x0F)])) (fun t => decide (t.reg 1 = 0x0C)) = true := by decide

/-- L2.3 #9. -/
theorem test_alu_xor : after (run 0x8123 (regs [(1, 0xFF), (2, 0x0F)])) (fun t => decide (t.reg 1 = 0xF0)) = true := by decide

/-- L1.2. -/
theorem test_alu_add_carry : after (run 0x8124 (regs [(1, 250), (2, 10)]))
    (fun t => decide (t.reg 1 = 4 ∧ t.reg 15 = 1)) = true := by decide

/-- L2.3 #16: with `x = 15` the flag is written last. -/
theorem test_alu_add_f : after (run 0x8F14 (regs [(15, 0x10), (1, 0x20)])) (fun t => decide (t.reg 15 = 0)) = true := by decide

/-- L1.3. -/
theorem test_alu_sub_borrow : after (run 0x8125 (regs [(1, 5), (2, 10)]))
    (fun t => decide (t.reg 1 = 0xFB ∧ t.reg 15 = 0)) = true := by decide

/-- L2.3 #18: equal operands do not borrow. -/
theorem test_alu_sub_equal : after (run 0x8125 (regs [(1, 10), (2, 10)]))
    (fun t => decide (t.reg 1 = 0 ∧ t.reg 15 = 1)) = true := by decide

/-- L2.3 #21. -/
theorem test_alu_shr : after (run 0x8126 (regs [(1, 0x05), (2, 0x80)]))
    (fun t => decide (t.reg 1 = 0x02 ∧ t.reg 15 = 1)) = true := by decide

/-- L2.3 #23: `SHIFT_SOURCE = vy`. -/
theorem test_alu_shr_vy : after (run 0x8126 (under (fun c => { c with shiftSource := .vy }) (regs [(1, 0x00), (2, 0x03)])))
    (fun t => decide (t.reg 1 = 0x01 ∧ t.reg 15 = 1 ∧ t.reg 2 = 0x03)) = true := by decide

/-- L2.3 #26. -/
theorem test_alu_subn : after (run 0x8127 (regs [(1, 5), (2, 10)]))
    (fun t => decide (t.reg 1 = 5 ∧ t.reg 15 = 1)) = true := by decide

/-- L2.3 #27. -/
theorem test_alu_subn_borrow : after (run 0x8127 (regs [(1, 10), (2, 5)]))
    (fun t => decide (t.reg 1 = 0xFB ∧ t.reg 15 = 0)) = true := by decide

/-- L2.3 #28. -/
theorem test_alu_shl : after (run 0x812E (regs [(1, 0x81)])) (fun t => decide (t.reg 1 = 0x02 ∧ t.reg 15 = 1)) = true := by decide

/-- L2.3 #30: `SHIFT_SOURCE = vy`. -/
theorem test_alu_shl_vy : after (run 0x812E (under (fun c => { c with shiftSource := .vy }) (regs [(1, 0x01), (2, 0x80)])))
    (fun t => decide (t.reg 1 = 0x00 ∧ t.reg 15 = 1)) = true := by decide

/-- L2.3 #32: with `kk = 0` the result is 0 whatever the byte drawn. -/
theorem test_random_zero : ∃ t, run 0xC100 (regs [(1, 0xFF)]) = .next t ∧ t.reg 1 = 0 :=
  ⟨_, rfl, (BitVec.and_zero : Config.randomByte 0 &&& 0#8 = 0#8)⟩

/-! ### Index register and memory transfers (L2.4) -/

/-- L2.4 #1. -/
theorem test_load_index : after (run 0xA123 State.reset) (fun t => decide (t.index = 0x0123)) = true := by decide

/-- L2.4 #3 and #5 with `INDEX_OVERFLOW_FLAG`. -/
theorem test_add_to_index_flag :
    after (run 0xF21E (under (fun c => { c with indexOverflowFlag := true }) (atIndex 0x0FFF (regs [(2, 1)]))))
      (fun t => decide (t.index = 0x1000 ∧ t.reg 15 = 1)) = true ∧
    after (run 0xF21E (under (fun c => { c with indexOverflowFlag := true }) (atIndex 0xFFFF (regs [(2, 1)]))))
      (fun t => decide (t.index = 0 ∧ t.reg 15 = 1)) = true := by decide

/-- L2.4 #2: without the flag register 15 stays. -/
theorem test_add_to_index : after (run 0xF21E (atIndex 0x300 (regs [(2, 0x10), (15, 7)])))
    (fun t => decide (t.index = 0x310 ∧ t.reg 15 = 7)) = true := by decide

/-- L2.4 #8, both font bases. -/
theorem test_font_address :
    after (run 0xF029 (regs [(0, 0x0F)])) (fun t => decide (t.index = 0x09B)) = true ∧
      after (run 0xF029 (under (fun c => { c with fontBase := .at000 }) (regs [(0, 0x0F)])))
        (fun t => decide (t.index = 0x04B)) = true := by decide

/-- L2.4 #10. -/
theorem test_font_address_fault : after (run 0xF029 (atIndex 5 (regs [(0, 0x10)])))
    (fun t => faulted 4 0x200 0xF029 t && decide (t.index = 5)) = true := by decide

/-- L2.4 #14: the digits in order, up to the last address. -/
theorem test_store_bcd : after (run 0xF033 (atIndex 0xFFD (regs [(0, 123)])))
    (fun t => decide (t.readByte 0xFFD = 1 ∧ t.readByte 0xFFE = 2 ∧ t.readByte 0xFFF = 3)) = true := by decide

/-- L2.4 #15: nothing is written when the last digit is out of bounds. -/
theorem test_store_bcd_fault : after (run 0xF033 (atIndex 0xFFE (regs [(0, 123)])))
    (fun t => faulted 4 0x200 0xF033 t && decide (t.readByte 0xFFE = 0 ∧ t.readByte 0xFFF = 0)) = true := by decide

/-- L2.4 #17: the index moves under `x_plus_1` only. -/
theorem test_store_registers :
    after (run 0xF155 (under (fun c => { c with loadStoreIncrement := .xPlusOne }) (atIndex 0xFFE (regs [(0, 9), (1, 8)]))))
      (fun t => decide (t.readByte 0xFFE = 9 ∧ t.readByte 0xFFF = 8 ∧ t.index = 0x1000)) = true ∧
    after (run 0xF155 (atIndex 0xFFE (regs [(0, 9), (1, 8)]))) (fun t => decide (t.index = 0xFFE)) = true := by decide

/-- L2.4 #19: the reserved region, protected and not. -/
theorem test_store_registers_protected :
    after (run 0xF055 (atIndex 0x1FF (regs [(0, 9)]))) (faulted 4 0x200 0xF055) = true ∧
      after (run 0xF055 (under (fun c => { c with protectReserved := false }) (atIndex 0x1FF (regs [(0, 9)]))))
        (fun t => decide (t.readByte 0x1FF = 9)) = true := by decide

/-- L2.4 #21: the glyph of digit 0. -/
theorem test_load_registers : after (run 0xF465 (atIndex 0x050 (regs [(5, 77)])))
    (fun t => decide (t.reg 0 = 0xF0 ∧ t.reg 1 = 0x90 ∧ t.reg 4 = 0xF0 ∧ t.reg 5 = 77 ∧ t.index = 0x050)) = true := by decide

/-- L2.4 #22: no register is changed. -/
theorem test_load_registers_fault : after (run 0xFF65 (atIndex 0xFF1 (regs [(0, 77)])))
    (fun t => faulted 4 0x200 0xFF65 t && decide (t.reg 0 = 77)) = true := by decide

/-! ### Display (L2.5) -/

/-- L2.5 #1. -/
theorem test_clear_screen : after (run 0x00E0 (lit [(3, 4)] State.reset))
    (fun t => shows [] t && decide (t.dirty = true ∧ t.reply = .issued .displayDirty none)) = true := by decide

/-- L2.5 #3: the right edge, clipped and wrapped. -/
theorem test_draw_edge :
    after (run 0xD121 (poke 0x300 0xFF (atIndex 0x300 (regs [(1, 60), (15, 9)]))))
      (fun t => shows [(60, 0), (61, 0), (62, 0), (63, 0)] t && decide (t.reg 15 = 0 ∧ t.dirty = true)) = true ∧
    after (run 0xD121 (under (fun c => { c with spriteEdge := .wrap }) (poke 0x300 0xFF (atIndex 0x300 (regs [(1, 60)])))))
      (shows [(60, 0), (61, 0), (62, 0), (63, 0), (0, 0), (1, 0), (2, 0), (3, 0)]) = true := by decide

/-- L2.5 #4, #6, #9: the origin is taken modulo the frame; a pixel turned off is a collision; an out-of-bounds sprite faults
before any write. -/
theorem test_draw_origin_collision_fault :
    after (run 0xD121 (poke 0x300 0x80 (atIndex 0x300 (regs [(1, 70), (2, 33)])))) (shows [(6, 1)]) = true ∧
    after (run 0xD121 (lit [(0, 0)] (poke 0x300 0x80 (atIndex 0x300 State.reset))))
      (fun t => shows [] t && decide (t.reg 15 = 1)) = true ∧
    after (run 0xD123 (atIndex 0xFFE (regs [(15, 9)])))
      (fun t => faulted 4 0x200 0xD123 t && decide (t.reg 15 = 9 ∧ t.dirty = false)) = true := by decide

/-! ### Keys and timers (L2.6) -/

/-- L2.6 #1, #2. -/
theorem test_skip_key_pressed :
    after (run 0xE09E (holding [3] (atPc 0x300 (regs [(0, 3)])))) (fun t => decide (t.pc = 0x304)) = true ∧
      after (run 0xE09E (atPc 0x300 (regs [(0, 3)]))) (fun t => decide (t.pc = 0x302)) = true := by decide

/-- L2.6 #3. -/
theorem test_skip_key_pressed_fault : after (run 0xE09E (regs [(0, 16)])) (faulted 6 0x200 0xE09E) = true := by decide

/-- L2.6 #5, #6. -/
theorem test_skip_key_not_pressed :
    after (run 0xEFA1 (regs [(15, 2)])) (fun t => decide (t.pc = 0x204)) = true ∧
      after (run 0xE0A1 (holding [15] (regs [(0, 15)]))) (fun t => decide (t.pc = 0x202)) = true := by decide

/-- L2.6 #7: nothing moves. -/
theorem test_wait_for_key_none : after (run 0xF30A (atPc 0x204 (regs [(3, 9)])))
    (fun t => decide (t.pc = 0x204 ∧ t.reg 3 = 9)) = true := by decide

/-- L2.6 #8: the lowest key. -/
theorem test_wait_for_key_lowest : after (run 0xF30A (holding [9, 5] State.reset))
    (fun t => decide (t.reg 3 = 5 ∧ t.pc = 0x202)) = true := by decide

/-- L2.6 #10. -/
theorem test_load_delay_timer : after (run 0xF207 { State.reset with dt := 0x3C }) (fun t => decide (t.reg 2 = 0x3C)) = true := by decide

/-- L2.6 #11. -/
theorem test_set_delay_timer : after (run 0xF015 (regs [(0, 120)])) (fun t => decide (t.dt = 120 ∧ t.st = 0)) = true := by decide

/-- L2.6 #12. -/
theorem test_set_sound_timer : after (run 0xF018 (regs [(0, 2)])) (fun t => decide (t.st = 2 ∧ t.dt = 0)) = true := by decide

/-- L2.6 #14, #15: ticks run in every status. -/
theorem test_tick :
    after (act .tick { State.reset with st := 3 }) (fun t => decide (t.dt = 0 ∧ t.st = 2)) = true ∧
      after (act .tick { State.reset with status := .faulted, dt := 5 }) (fun t => decide (t.dt = 4)) = true := by decide

/-! ### Reset and the host (L2.7) -/

/-- L2.7 #1. -/
theorem test_power_on_issue : after (step State.powerOn) (fun t => decide (t = State.powerOn)) = true := by decide

/-- L2.7 #2. -/
theorem test_load_rom : after (act (.romLoad defaultConfig [0x00, 0xE0]) State.powerOn)
    (fun t => decide (t.status = .running ∧ t.pc = 0x200 ∧ t.readByte 0x201 = 0xE0 ∧ t.readByte 0x050 = 0xF0)) = true := by decide

/-- L2.7 #10: a held key survives a load. -/
theorem test_load_keeps_keys : after (act (.romLoad defaultConfig []) (holding [4] State.reset))
    (fun t => decide (t.keyState[4] = true)) = true := by decide

/-- L2.5, display read: the flag from before, then cleared. -/
theorem test_display_read : after (act .displayRead { State.reset with dirty := true })
    (fun t => decide (t.dirty = false ∧ t.reply = .display clearFb true)) = true := by decide

/-- A status read returns the latched fault registers (60_exceptions.md R280). -/
theorem test_status_read : after (run 0x8008 State.reset)
    (fun t => decide (t.statusRead = ⟨.faulted, 1, 0x200, 0x8008, 0, 0⟩)) = true := by decide

/-- The host's way in: the word of `load-immediate` placed at reset runs first. -/
theorem test_with_fetch_word : after (step (State.reset.withFetchWord 16 0x652A))
    (fun t => decide (t.reg 5 = 0x2A ∧ t.pc = 0x202)) = true := by decide

/-! ### Witnesses: the hypotheses of each obligation, met together -/

/-- RomLoadResetsTheState, RomIsCopiedVerbatim: the longest ROM, its first and last byte. -/
theorem witness_rom_accepted :
    (List.replicate 3584 (7 : Byte)).length ≤ 3584 ∧ (List.replicate 3584 (7 : Byte))[0]? = some 7 ∧
      (List.replicate 3584 (7 : Byte))[3583]? = some 7 := by
  simp only [List.length_replicate, List.getElem?_replicate]; decide

/-- RomIsCopiedVerbatim: the clauses past the ROM and below 0x200, at the ends of their ranges, under each font base. -/
theorem witness_rom_copied_ranges :
    (0x200 + [(7 : Byte)].length ≤ 0x201 ∧ 0x201 ≤ 0xFFF) ∧ (0x200 + [(7 : Byte)].length ≤ 0xFFF) ∧
      0x04F < fontBaseAddr .at050 ∧ fontBaseAddr .at050 + 80 ≤ 0x0A0 ∧ fontBaseAddr .at000 + 80 ≤ 0x050 ∧
      fontBaseAddr .at050 + 80 ≤ 0x1FF := by decide

/-- RomLoadResetsTheState: the memory clause at the ends of its ranges: the font's first and last byte, the byte after it, the
last byte below the ROM, the ROM's only byte and the byte after it, and the top of memory. -/
theorem witness_loaded_bytes :
    loadedByte defaultConfig [7] 0x04F = 0 ∧ loadedByte defaultConfig [7] 0x050 = 0xF0 ∧
      loadedByte defaultConfig [7] 0x09F = 0x80 ∧ loadedByte defaultConfig [7] 0x0A0 = 0 ∧
      loadedByte defaultConfig [7] 0x1FF = 0 ∧ loadedByte defaultConfig [7] 0x200 = 7 ∧
      loadedByte defaultConfig [7] 0x201 = 0 ∧ loadedByte defaultConfig [7] 0xFFF = 0 ∧
      loadedByte { defaultConfig with fontBase := .at000 } [7] 0x000 = 0xF0 := by decide

/-- OversizedRomIsRejected: one byte too many. -/
theorem witness_rom_rejected : 3584 < (List.replicate 3585 (7 : Byte)).length := by
  simp only [List.length_replicate]; decide

/-- StepKeepsMemoryCanonical: a store, from a canonical memory. -/
theorem witness_memory_canonical : ∃ t, ((atIndex 0x300 (regs [(0, 9)])).withFetchWord 16 0xF055).memoryWf ∧
    run 0xF055 (atIndex 0x300 (regs [(0, 9)])) = .next t ∧ t.readByte 0x300 = 9 :=
  ⟨_, by show Memory.wf _ _ = true; decide, rfl, by decide⟩

/-- StepKeepsStackPointerAndPcInRange: a call that fills the stack. -/
theorem witness_sp_and_pc_in_range : ∃ t, ((stacked 15 State.reset).withFetchWord 16 0x2ABC).spInRange ∧
    ((stacked 15 State.reset).withFetchWord 16 0x2ABC).pcInRange ∧ run 0x2ABC (stacked 15 State.reset) = .next t ∧ t.sp = 16 :=
  ⟨_, by show (15 : BitVec 8).toNat ≤ 16; decide,
    ⟨by show (0x200 : Word).toNat ≤ 0x10FE; decide, fun k => by revert k; decide⟩, rfl, by decide⟩

/-- StepKeepsFaultRegistersAgreed: a step that faults. -/
theorem witness_fault_registers_agree : ∃ t, (State.reset.withFetchWord 16 0x8008).faultRegsAgree ∧
    run 0x8008 State.reset = .next t ∧ t.status = .faulted :=
  ⟨_, ⟨fun _ => ⟨rfl, rfl, rfl⟩, fun h => by cases h⟩, rfl, rfl⟩

/-- StepKeepsReservedRegionIntact: a state with the region protected and intact, and its step. -/
theorem witness_reserved_intact : ∃ t, State.reset.cfg.protectReserved = true ∧ State.reset.reservedIntact ∧
    step State.reset = .next t := ⟨_, rfl, fun _ _ _ => rfl, rfl⟩

/-- StepAlwaysAnswersANextState: the two ends of the range of `SP`. -/
theorem witness_sp_ends : (stacked 0 State.reset).spInRange ∧ (stacked 16 State.reset).spInRange :=
  ⟨by show (0 : BitVec 8).toNat ≤ 16; decide, by show (16 : BitVec 8).toNat ≤ 16; decide⟩

/-- StackInstructionsStopAboveSixteen. -/
theorem witness_sp_above : 16 < (stacked 17 State.reset).sp.toNat := by decide

/-- StrictDecodeLosesNoBit. -/
theorem witness_strict_decode : decode true 0xD12F = .known (.draw 1 2 15) := by decide

/-- StepRunsTheDecodedInstruction: an instruction placed at reset. -/
theorem witness_step_runs : let s := State.reset.withFetchWord 16 0x652A
    s.status = .running ∧ s.nextEvent = .issue ∧ s.fetchWord = some 0x652A ∧
      decode s.cfg.decodeStrict 0x652A = .known (.loadImmediate 5 0x2A) := by decide

/-- FetchIsBigEndian: the last legal address. -/
theorem witness_fetch_last : (atPc 0xFFE State.reset).pc.toNat + 1 < 0x1000 := by decide

/-- FetchAndDecodeFaultBeforeExecution: the first illegal address, and an unknown word. -/
theorem witness_fetch_and_decode_fault :
    ((atPc 0xFFF State.reset).status = .running ∧ (atPc 0xFFF State.reset).nextEvent = .issue ∧
      0xFFF ≤ (atPc 0xFFF State.reset).pc.toNat) ∧
    (State.reset.withFetchWord 16 0x8008).status = .running ∧ (State.reset.withFetchWord 16 0x8008).nextEvent = .issue ∧
      (State.reset.withFetchWord 16 0x8008).fetchWord = some 0x8008 ∧ decode false 0x8008 = .unknown 0x8008 := by decide

/-- IssueIsIgnoredUnlessRunning: in both other statuses. -/
theorem witness_issue_ignored : (State.powerOn.status ≠ .running ∧ State.powerOn.nextEvent = .issue) ∧
    (State.reset.raise .unknownOpcode).status ≠ .running ∧ (State.reset.raise .unknownOpcode).nextEvent = .issue := by decide

/-- InstructionsFaultExactlyAsListed: its hypotheses, and each cause on both sides of its boundary. -/
theorem witness_listed_faults :
    (State.reset.sp.toNat ≤ 16 ∧ State.reset.fetchWord = some 0x0000) ∧
    listedFault (.call 0x300) (stacked 16 State.reset) = some .stackOverflow ∧
    listedFault (.call 0x300) (stacked 15 State.reset) = none ∧
    listedFault .ret (stacked 0 State.reset) = some .stackUnderflow ∧ listedFault .ret (stacked 1 State.reset) = none ∧
    listedFault (.draw 1 2 3) (atIndex 0xFFE State.reset) = some .outOfBoundsAccess ∧
    listedFault (.draw 1 2 3) (atIndex 0xFFD State.reset) = none ∧ listedFault (.draw 1 2 0) (atIndex 0xFFFF State.reset) = none ∧
    listedFault (.storeBcd 1) (atIndex 0xFFE State.reset) = some .outOfBoundsAccess ∧
    listedFault (.storeBcd 1) (atIndex 0xFFD State.reset) = none ∧
    listedFault (.storeBcd 1) (atIndex 0x1FF State.reset) = some .outOfBoundsAccess ∧
    listedFault (.storeRegisters 0) (atIndex 0x1FF State.reset) = some .outOfBoundsAccess ∧
    listedFault (.storeRegisters 0) (atIndex 0x200 State.reset) = none ∧
    listedFault (.storeRegisters 15) (atIndex 0xFF1 State.reset) = some .outOfBoundsAccess ∧
    listedFault (.loadRegisters 15) (atIndex 0xFF1 State.reset) = some .outOfBoundsAccess ∧
    listedFault (.loadRegisters 15) (atIndex 0xFF0 State.reset) = none ∧
    listedFault (.loadFontAddress 0) (regs [(0, 16)]) = some .outOfBoundsAccess ∧
    listedFault (.loadFontAddress 0) (regs [(0, 15)]) = none ∧
    listedFault (.skipIfKeyPressed 0) (regs [(0, 16)]) = some .invalidKeyIndex ∧
    listedFault (.skipIfKeyNotPressed 0) (regs [(0, 15)]) = none := by decide

/-- FaultEntryIsPrecise: a step from `RUNNING` into `FAULTED`. -/
theorem witness_fault_entry : ∃ t, (State.reset.withFetchWord 16 0x8008).status ≠ .faulted ∧
    step (State.reset.withFetchWord 16 0x8008) = .next t ∧ t.status = .faulted := ⟨_, by decide, rfl, rfl⟩

/-- FaultedIsLeftOnlyByALoad: a faulted state with a tick, a key write or a display read next, each changing its part. -/
theorem witness_faulted_stays :
    (∃ t, step { State.reset with status := .faulted, dt := 5, agenda := [.tick] } = .next t ∧ t.dt ≠ 5) ∧
      (∃ t, step { State.reset with status := .faulted, agenda := [.keyWrite (Vector.replicate 16 true)] } = .next t ∧
        t.keyState ≠ State.reset.keyState) ∧
      (∃ t, step { State.reset with status := .faulted, dirty := true, agenda := [.displayRead] } = .next t ∧ t.dirty ≠ true) ∧
      ∀ cfg rom, ({ State.reset with status := .faulted, agenda := [.tick] } : State).nextEvent = .romLoad cfg rom →
        3584 < rom.length :=
  ⟨⟨_, rfl, by decide⟩, ⟨_, rfl, by decide⟩, ⟨_, rfl, by decide⟩, fun _ _ h => by cases h⟩

/-- TickCountsBothTimersDown, TicksAddUp: both sides of the clamp, and the preset of L1.8. -/
theorem witness_timers : 0 < ({ State.reset with dt := 1, st := 1 } : State).dt.toNat ∧
    0 < ({ State.reset with dt := 1, st := 1 } : State).st.toNat ∧ State.reset.dt.toNat = 0 ∧ State.reset.st.toNat = 0 ∧
    ({ State.reset with dt := 120 } : State).dt = 120 := by decide

/-- OnlyKeyWritesReplaceTheKeys: a step that changes `KEYSTATE`. -/
theorem witness_keys_change : ∃ t, step { State.reset with agenda := [.keyWrite (Vector.replicate 16 true)] } = .next t ∧
    t.keyState ≠ State.reset.keyState := ⟨_, rfl, by decide⟩

/-- ParametersChangeOnlyAtALoad: a load under another parameter. -/
theorem witness_parameters_change : ∃ t,
    step { State.reset with agenda := [.romLoad { defaultConfig with decodeStrict := true } []] } = .next t ∧
      t.cfg ≠ State.reset.cfg := ⟨_, rfl, by decide⟩

/-- EveryInstructionKeepsThePcDiscipline: an instruction that advances, a jump, a call, a return, a taken skip and a wait. -/
theorem witness_pc_discipline : State.reset.status ≠ .faulted ∧
    after (exec (.aluAdd 1 2) State.reset) (fun t => decide (t.status ≠ .faulted)) = true ∧
    after (exec (.jump 0xFFF) State.reset) (fun t => decide (t.status ≠ .faulted)) = true ∧
    after (exec (.call 0xFFF) (stacked 15 State.reset)) (fun t => decide (t.status ≠ .faulted)) = true ∧
    after (exec .ret (stacked 16 State.reset)) (fun t => decide (t.status ≠ .faulted)) = true ∧
    after (exec (.skipIfKeyNotPressed 0) (regs [(0, 15)])) (fun t => decide (t.status ≠ .faulted)) = true ∧
    after (exec (.waitForKey 0) State.reset) (fun t => decide (t.status ≠ .faulted)) = true := by decide

/-- RegistersAreWrittenOnlyAsNamed: a register beside the destination, register 15 without the index flag, a register above a
block load. -/
theorem witness_registers_kept :
    (∃ t, exec (.aluAdd 1 2) State.reset = .next t) ∧ ¬isDestination (.aluAdd 1 2) 2 ∧
      ¬((2 : Reg) = 15 ∧ writesFlag defaultConfig (.aluAdd 1 2) = true) ∧
    (∃ t, exec (.addToIndex 1) State.reset = .next t) ∧ ¬isDestination (.addToIndex 1) 15 ∧
      ¬((15 : Reg) = 15 ∧ writesFlag defaultConfig (.addToIndex 1) = true) ∧
    (∃ t, exec (.loadRegisters 3) State.reset = .next t) ∧ ¬isDestination (.loadRegisters 3) 4 :=
  ⟨⟨_, rfl⟩, by simp [isDestination], by decide, ⟨_, rfl⟩, by simp [isDestination], by decide, ⟨_, rfl⟩,
    by show ¬((4 : Reg) ≤ 3); decide⟩

/-- IndexMemoryAndStackAreWrittenOnlyAsNamed: one instruction that none of the three names, and a block store that leaves I. -/
theorem witness_index_memory_stack_kept :
    (∃ t, exec (.aluAdd 1 2) State.reset = .next t) ∧ writesIndex defaultConfig (.aluAdd 1 2) = false ∧
      isStore (.aluAdd 1 2) = false ∧ usesStack (.aluAdd 1 2) = false ∧ writesIndex defaultConfig (.storeRegisters 1) = false :=
  ⟨⟨_, rfl⟩, rfl, rfl, rfl, rfl⟩

/-- OnlyDisplayInstructionsMarkDirty: each of its three cases. -/
theorem witness_dirty_cases : State.reset.status ≠ .faulted ∧
    after (exec .clearScreen State.reset) (fun t => decide (t.status ≠ .faulted ∧ marksDirty .clearScreen = true)) = true ∧
    after (exec (.aluAdd 1 2) State.reset) (fun t => decide (t.status ≠ .faulted ∧ marksDirty (.aluAdd 1 2) = false)) = true ∧
    after (exec (.draw 1 2 3) (atIndex 0xFFE State.reset)) (fun t => decide (t.status = .faulted)) = true := by decide

/-- TimersAreReadOnlyAsNamed: an instruction that names no timer, and the ones that write them. -/
theorem witness_timer_cases : (∀ x, Instr.clearScreen ≠ .setSoundTimer x) ∧ (∀ x, Instr.clearScreen ≠ .loadDelayTimer x) ∧
    (∀ x, Instr.clearScreen ≠ .setDelayTimer x) ∧ (∃ x, Instr.setSoundTimer 3 = .setSoundTimer x) ∧
    ∃ x, Instr.setDelayTimer 3 = .setDelayTimer x :=
  ⟨fun _ h => (by cases h), fun _ h => (by cases h), fun _ h => (by cases h), ⟨3, rfl⟩, ⟨3, rfl⟩⟩

/-- DrawTogglesTheSpritePixels: a sprite of no rows anywhere, and the last sprite in bounds. -/
theorem witness_draw_in_bounds : ((0 : Nibble).toNat = 0 ∨ (atIndex 0xFFFF State.reset).ea + (0 : Nibble).toNat - 1 < 0x1000) ∧
    ((3 : Nibble).toNat = 0 ∨ (atIndex 0xFFD State.reset).ea + (3 : Nibble).toNat - 1 < 0x1000) := by decide

/-- DrawTogglesTheSpritePixels: a pixel the glyph of digit 0 toggles and one it does not. -/
theorem witness_draw_toggles : drawToggles (atIndex 0x050 State.reset) 1 2 5 3 4 ∧
    ¬drawToggles (atIndex 0x050 State.reset) 1 2 5 4 4 := by
  refine ⟨⟨4, by decide, 3, by decide, by decide, by show 0 + 3 = 3 ∧ 0 + 4 = 4; decide⟩, ?_⟩
  rintro ⟨r, hr, c, hc, hb, hl⟩
  have h : 0 + c = 4 ∧ 0 + r = 4 := hl
  obtain ⟨rfl, rfl⟩ : c = 4 ∧ r = 4 := by omega
  revert hb; decide

/-- DrawReportsCollisionInRegister15: a draw onto a lit pixel, and one onto a clear screen. -/
theorem witness_draw_collision :
    (∃ t, exec (.draw 1 2 5) (lit [(3, 4)] (atIndex 0x050 State.reset)) = .next t ∧ decide (t.status ≠ .faulted) = true) ∧
      (drawToggles (lit [(3, 4)] (atIndex 0x050 State.reset)) 1 2 5 3 4 ∧
        pixelAt (lit [(3, 4)] (atIndex 0x050 State.reset)).fb 3 4 = true) ∧
      ∀ x y, drawToggles (atIndex 0x050 State.reset) 1 2 5 x y → pixelAt (atIndex 0x050 State.reset).fb x y = false :=
  ⟨after_next (by decide), ⟨⟨4, by decide, 3, by decide, by decide, by show 0 + 3 = 3 ∧ 0 + 4 = 4; decide⟩, by decide⟩,
    fun x y _ => by show (Vector.replicate 32 (Vector.replicate 64 false))[y.val][x.val] = false; simp⟩

/-- DrawingTwiceRestoresTheFramebuffer: its hypotheses met by two draws from a state, as one check. -/
theorem draw_twice_of_check (vx vy : Reg) (n : Nibble) (s : State)
    (h : after (exec (.draw vx vy n) s) (fun t => decide (t.status ≠ .faulted ∧ (t.reg vx).toNat % 64 = (s.reg vx).toNat % 64 ∧
      (t.reg vy).toNat % 32 = (s.reg vy).toNat % 32) && after (exec (.draw vx vy n) t) fun _ => true) = true) :
    ∃ t u, exec (.draw vx vy n) s = .next t ∧ t.status ≠ .faulted ∧ (t.reg vx).toNat % 64 = (s.reg vx).toNat % 64 ∧
      (t.reg vy).toNat % 32 = (s.reg vy).toNat % 32 ∧ exec (.draw vx vy n) t = .next u := by
  obtain ⟨t, ht, hp⟩ := after_next h
  simp only [Bool.and_eq_true, decide_eq_true_iff] at hp
  obtain ⟨u, hu, _⟩ := after_next hp.2
  exact ⟨t, u, ht, hp.1.1, hp.1.2.1, hp.1.2.2, hu⟩

/-- DrawingTwiceRestoresTheFramebuffer: L1.4, both draws. -/
theorem witness_draw_twice : (atIndex 0x050 State.reset).status ≠ .faulted ∧
    ∃ t u, exec (.draw 1 2 5) (atIndex 0x050 State.reset) = .next t ∧ t.status ≠ .faulted ∧
      (t.reg 1).toNat % 64 = ((atIndex 0x050 State.reset).reg 1).toNat % 64 ∧
      (t.reg 2).toNat % 32 = ((atIndex 0x050 State.reset).reg 2).toNat % 32 ∧ exec (.draw 1 2 5) t = .next u :=
  ⟨by decide, draw_twice_of_check 1 2 5 _ (by decide)⟩

/-- DrawingTwiceRestoresTheFramebuffer: `x = 15` with `V[15] = 64`, which the draw turns into 0, the same column. -/
theorem witness_draw_twice_f : ((atIndex 0x050 (regs [(15, 64)])).status ≠ .faulted ∧
    after (exec (.draw 15 2 5) (atIndex 0x050 (regs [(15, 64)]))) (fun t => decide (t.reg 15 = 0)) = true) ∧
    ∃ t u, exec (.draw 15 2 5) (atIndex 0x050 (regs [(15, 64)])) = .next t ∧ t.status ≠ .faulted ∧
      (t.reg 15).toNat % 64 = ((atIndex 0x050 (regs [(15, 64)])).reg 15).toNat % 64 ∧
      (t.reg 2).toNat % 32 = ((atIndex 0x050 (regs [(15, 64)])).reg 2).toNat % 32 ∧ exec (.draw 15 2 5) t = .next u :=
  ⟨⟨by decide, by decide⟩, draw_twice_of_check 15 2 5 _ (by decide)⟩

/-- CallPushesTheReturnAddress, ReturnPopsIntoThePc: the first and the last entry. -/
theorem witness_stack_entries : (stacked 0 State.reset).sp.toNat = (0 : Fin 16).val ∧
    (stacked 15 State.reset).sp.toNat = (15 : Fin 16).val ∧ (stacked 1 State.reset).sp.toNat = (0 : Fin 16).val + 1 ∧
    (stacked 16 State.reset).sp.toNat = (15 : Fin 16).val + 1 := by decide

/-- CallsNestSixteenDeepAndReturn: L1.5 at the last entry, and an empty stack. -/
theorem witness_call_then_return : State.reset.sp = 0 ∧ (stacked 15 State.reset).spInRange ∧
    (stacked 15 State.reset).status ≠ .faulted ∧ ∃ t u, exec (.call 0x300) (stacked 15 State.reset) = .next t ∧
      t.status ≠ .faulted ∧ exec .ret t = .next u :=
  ⟨rfl, by show (15 : BitVec 8).toNat ≤ 16; decide, by decide, _, _, rfl, by decide, rfl⟩

/-- HaltedProgramStaysAtItsHalt: `jump 0x200` at 0x200. -/
theorem witness_at_halt : (State.reset.withFetchWord 16 0x1200).atHalt 0x200 ∧
    (State.reset.withFetchWord 16 0x1200).nextEvent = .issue :=
  ⟨⟨rfl, by decide, 0x1200, by decide, by decide⟩, rfl⟩

/-- AddToIndexAddsExactly, RandomMasksAFreshByte: both values of the flag parameter, and a mask of 0. -/
theorem witness_index_flag : ({ defaultConfig with indexOverflowFlag := true } : Config).indexOverflowFlag = true ∧
    defaultConfig.indexOverflowFlag = false ∧ (0x00 : Byte) = 0 := by decide

/-- LoadFontAddressPointsAtTheGlyph: the last digit. -/
theorem witness_font_digit : ((regs [(3, 15)]).reg 3).toNat ≤ 15 := by decide

/-- StoreBcdStoresThreeDigits, StoreRegistersStoresTheBlock, LoadRegistersLoadsTheBlock: the last and the first address. -/
theorem witness_blocks_in_bounds :
    (atIndex 0xFFD State.reset).ea + 2 < 0x1000 ∧ (atIndex 0xFF0 State.reset).ea + (15 : Reg).val < 0x1000 ∧
      ¬(State.reset.cfg.protectReserved = true ∧ (atIndex 0x200 State.reset).ea ≤ 0x1FF) ∧
      (0 : Reg) ≤ 14 ∧ (14 : Reg) ≤ 14 ∧ (14 : Reg) < 15 ∧ State.reset.cfg.loadStoreIncrement = .none ∧
      ({ defaultConfig with loadStoreIncrement := .xPlusOne } : Config).loadStoreIncrement = .xPlusOne := by decide

/-- StoreIsSeenByTheNextFetch: P6 of L3, the store at 0x206 of the word fetched at 0x208. -/
theorem witness_store_seen : (atPc 0x206 (atIndex 0x208 (regs [(0, 0x12), (1, 0x08)]))).status ≠ .faulted ∧
    (∃ t, exec (.storeRegisters 1) (atPc 0x206 (atIndex 0x208 (regs [(0, 0x12), (1, 0x08)]))) = .next t ∧
      decide (t.status ≠ .faulted ∧ t.pc.toNat = 0x208 + (0 : Reg).val) = true) ∧ (1 : Reg).val = (0 : Reg).val + 1 ∧
    (1 : Reg) ≤ 1 := ⟨by decide, after_next (by decide), rfl, by decide⟩

/-- KeySkipsTestTheSnapshot: the last key. -/
theorem witness_key_index : ((regs [(3, 15)]).reg 3).toNat = (15 : Reg).val := by decide

/-- WaitForKeyTakesTheLowestKey: no key, and a lowest key with a higher one. -/
theorem witness_wait_keys : (∀ k : Reg, State.reset.keys[k] = false) ∧
    (holding [9, 5] State.reset).beginStep.keys[(5 : Reg)] = true ∧
      ∀ j : Reg, j < 5 → (holding [9, 5] State.reset).beginStep.keys[j] = false := by decide

end Sys2Proof.Tests
end

section
/-! PROOFS. The statements of 20_memory.md: the byte order of an instruction word. -/

namespace Sys2Proof.Machine

/-- Settles O18: in bounds the fetch joins the two bytes at `pc`, and joining two bytes into a word does not wrap. -/
theorem fetchIsBigEndian : Obligations.FetchIsBigEndian := by
  intro s hpc
  have hfetch : s.fetchWord = some (joinBytes (s.readByte s.pc.toNat) (s.readByte (s.pc.toNat + 1))) := by
    rw [State.fetchWord_eq, if_pos hpc]
  exact ⟨_, hfetch, joinBytes_toNat _ _⟩

end Sys2Proof.Machine
end

section
/-! PROOFS. The statements of 40_display.md: clearing the screen. -/

namespace Sys2Proof.Machine

/-- R110: the one outcome of `clear-screen`, in every state. -/
theorem exec_clearScreen (s : State) : exec .clearScreen s = .next (s.advance.setFb clearFb).markDirty := rfl

/-- Settles O35: the framebuffer left behind is `clearFb`, and the three updates write no field but `pc`, the
framebuffer, `DIRTY` and the reply. -/
theorem clearScreenClearsEveryPixel : Obligations.ClearScreenClearsEveryPixel := by
  intro s
  refine ⟨_, exec_clearScreen s, fun x y => ?pixels, ?frame⟩
  case pixels =>
    rw [State.markDirty_fb, State.setFb_fb]
    exact pixelAt_clearFb x y
  case frame => rfl

end Sys2Proof.Machine
end

section
/-! PROOFS. The statements of 42_alu.md: the immediate forms. -/

namespace Sys2Proof.Machine

open Sys2Proof.Claims

/-- A register write changes the register it names and no other. -/
theorem oneReg_setReg (s : State) (x : Reg) (b : Byte) : oneReg s (s.setReg x b) x b := by
  constructor
  · rw [State.reg_setReg, if_pos rfl]
  · intro r hr
    rw [State.reg_setReg, if_neg (Ne.symm hr)]

/-- R160: the one outcome of `load-immediate`, in every state. -/
theorem exec_loadImmediate (x : Reg) (kk : Byte) (s : State) :
    exec (.loadImmediate x kk) s = .next (s.advance.setReg x kk) := rfl

/-- R161: the one outcome of `add-immediate`, in every state; cutting the sum to a byte reduces it modulo 256. -/
theorem exec_addImmediate (x : Reg) (kk : Byte) (s : State) :
    exec (.addImmediate x kk) s =
      .next (s.advance.setReg x (BitVec.ofNat 8 (((s.reg x).toNat + kk.toNat) % 256))) := by
  have hwrap (n : Nat) : BitVec.ofNat 8 (n % 256) = BitVec.ofNat 8 n :=
    BitVec.eq_of_toNat_eq (by simp only [BitVec.toNat_ofNat]; omega)
  rw [hwrap]
  rfl

/-- An instruction that only advances and writes register `x` changes that register and `pc`, and nothing else. -/
theorem exec_writes_oneReg {i : Instr} {s : State} {x : Reg} {b : Byte}
    (h : exec i s = .next (s.advance.setReg x b)) :
    ∃ t, exec i s = .next t ∧ oneReg s t x b ∧ t.pc = s.pc + 2 ∧ onlyRegs s t := by
  refine ⟨_, h, ?register, ?pc, ?frame⟩
  case register => exact oneReg_setReg s.advance x b
  case pc => rw [State.setReg_pc, State.advance_pc]
  case frame => exact ⟨rfl, State.readByte_congr rfl rfl⟩

/-- Settles O45: both forms advance and write register `x`, 15 or not, and no other register is named as a flag. -/
theorem immediateFormsWriteOneRegister : Obligations.ImmediateFormsWriteOneRegister := by
  intro x kk s
  exact ⟨exec_writes_oneReg (exec_loadImmediate x kk s), exec_writes_oneReg (exec_addImmediate x kk s)⟩

end Sys2Proof.Machine
end

section
/-! PROOFS. The statements of 43_index_memory.md: the index register. -/

namespace Sys2Proof.Machine

open Sys2Proof.Claims

/-- R200: the one outcome of `load-index`, in every state. -/
theorem exec_loadIndex (nnn : Addr12) (s : State) :
    exec (.loadIndex nnn) s = .next (s.advance.setIndex (addrWord nnn)) := rfl

/-- Settles O51: widening the 12-bit address loses nothing, and the two updates write no field but `pc` and `I`. -/
theorem loadIndexSetsTheIndex : Obligations.LoadIndexSetsTheIndex := by
  intro nnn s
  refine ⟨_, exec_loadIndex nnn s, ?index, ?pc, ?frame⟩
  case index =>
    rw [State.setIndex_index]
    exact addrWord_toNat nnn
  case pc => rw [State.setIndex_pc, State.advance_pc]
  case frame => exact ⟨rfl, State.readByte_congr rfl rfl⟩

end Sys2Proof.Machine
end

section
/-! PROOFS. The statements of 60_exceptions.md: the timer tick. -/

namespace Sys2Proof.Machine

/-- R275, R277: the one outcome of a tick, in every state and so in every `STATUS`. -/
theorem act_tick (s : State) : act .tick s = .next s.tick := rfl

/-- R275: each timer loses 1, where subtraction on the naturals is the clamp at 0. -/
theorem State.tick_timers_toNat (s : State) :
    s.tick.dt.toNat = s.dt.toNat - 1 ∧ s.tick.st.toNat = s.st.toNat - 1 :=
  ⟨countDown_toNat s.dt, countDown_toNat s.st⟩

/-- R275: a tick writes no field but the two timers and the reply. -/
theorem State.tick_frame (s : State) :
    s.tick = { s with dt := s.tick.dt, st := s.tick.st, reply := s.tick.reply } := rfl

/-- Settles O24: a tick counts each timer down by a subtraction clamped at 0, whose two cases the statement lists, and
its frame is `State.tick_frame`. -/
theorem tickCountsBothTimersDown : Obligations.TickCountsBothTimersDown := by
  intro s
  obtain ⟨hdt, hst⟩ := s.tick_timers_toNat
  refine ⟨s.tick, act_tick s, fun _ => hdt, ?dtAtZero, fun _ => hst, ?stAtZero, s.tick_frame⟩
  case dtAtZero =>
    intro hzero
    rw [hdt, hzero]
  case stAtZero =>
    intro hzero
    rw [hst, hzero]

end Sys2Proof.Machine
end

section
/-! SUPPORT. The three ways an instruction can end, said once for all 34 of them: it faults where the table of causes lists
a fault, it stops where the stack pointer is out of range, and otherwise it completes. A completed instruction is written
out field by field, so that what it leaves unchanged holds by definition. -/

namespace Sys2Proof.Machine

open Sys2Proof.Claims

/-! ### The fields a completed instruction writes -/

/-- The framebuffer and the collision bit that the sprite of a draw leaves (40_display.md R113). -/
def State.drawnSprite (s : State) (x y : Reg) (n : Nibble) : Framebuffer × Bool :=
  drawRows s.cfg.spriteEdge (s.originX x) (s.originY y) (s.bytesFrom s.ea n.toNat) (s.fb, false)

/-- `I` after a register block transfer, by `LOAD_STORE_INCREMENT` (43_index_memory.md R216). -/
def State.blockIndex (s : State) (x : Reg) : Word :=
  if s.cfg.loadStoreIncrement = .xPlusOne then BitVec.ofNat 16 (s.index.toNat + x.val + 1) else s.index

/-- The general registers after a completed instruction. -/
def vAfter (i : Instr) (s : State) : Vector Byte 16 :=
  match i with
  | .loadImmediate x kk => (s.setReg x kk).v
  | .addImmediate x kk => (s.setReg x (BitVec.ofNat 8 ((s.reg x).toNat + kk.toNat))).v
  | .aluLoad x y => (s.setReg x (s.reg y)).v
  | .aluOr x y => (s.setReg x (s.reg x ||| s.reg y)).v
  | .aluAnd x y => (s.setReg x (s.reg x &&& s.reg y)).v
  | .aluXor x y => (s.setReg x (s.reg x ^^^ s.reg y)).v
  | .aluAdd x y =>
    (s.setRegFlag x (BitVec.ofNat 8 ((s.reg x).toNat + (s.reg y).toNat)) (carryFlag (s.reg x) (s.reg y))).v
  | .aluSub x y => (s.setRegFlag x (subByte (s.reg x) (s.reg y)) (notBorrowFlag (s.reg x) (s.reg y))).v
  | .aluShr x y => (s.setRegFlag x (s.shiftOperand x y >>> 1) (shrFlag (s.shiftOperand x y))).v
  | .aluSubn x y => (s.setRegFlag x (subByte (s.reg y) (s.reg x)) (notBorrowFlag (s.reg y) (s.reg x))).v
  | .aluShl x y => (s.setRegFlag x (s.shiftOperand x y <<< 1) (shlFlag (s.shiftOperand x y))).v
  | .random x kk => (s.setReg x (Config.randomByte s.draws &&& kk)).v
  | .draw x y n => (s.setReg 15 (collisionFlag (s.drawnSprite x y n).2)).v
  | .loadDelayTimer x => (s.setReg x s.dt).v
  | .waitForKey x => (lowestKey s.keys).elim s.v fun k => (s.setReg x (keyByte k)).v
  | .addToIndex x => if s.cfg.indexOverflowFlag then (s.setReg 15 (indexOverflowByte (s.indexSum x))).v else s.v
  | .loadRegisters x => (s.setRegs (s.bytesFrom s.ea (x.val + 1))).v
  | _ => s.v

/-- `I` after a completed instruction. -/
def indexAfter (i : Instr) (s : State) : Word :=
  match i with
  | .loadIndex nnn => addrWord nnn
  | .addToIndex x => BitVec.ofNat 16 (s.indexSum x)
  | .loadFontAddress x => fontAddress s.cfg (s.reg x)
  | .storeRegisters x => s.blockIndex x
  | .loadRegisters x => s.blockIndex x
  | _ => s.index

/-- `SP` after a completed instruction. -/
def spAfter (i : Instr) (s : State) : BitVec 8 :=
  match i with
  | .ret => s.sp - 1
  | .call _ => s.sp + 1
  | _ => s.sp

/-- The stack after a completed instruction. -/
def stackAfter (i : Instr) (s : State) : Vector Word 16 :=
  match i with
  | .call _ => s.stack.setIfInBounds s.sp.toNat (s.pc + 2)
  | _ => s.stack

/-- `DT` after a completed instruction. -/
def dtAfter (i : Instr) (s : State) : Byte :=
  match i with
  | .setDelayTimer x => s.reg x
  | _ => s.dt

/-- `ST` after a completed instruction. -/
def stAfter (i : Instr) (s : State) : Byte :=
  match i with
  | .setSoundTimer x => s.reg x
  | _ => s.st

/-- The framebuffer after a completed instruction. -/
def fbAfter (i : Instr) (s : State) : Framebuffer :=
  match i with
  | .clearScreen => clearFb
  | .draw x y n => (s.drawnSprite x y n).1
  | _ => s.fb

/-- The bytes an instruction stores, from `I` on: only the two stores have any (20_memory.md R51). -/
def storedBytes (i : Instr) (s : State) : List Byte :=
  match i with
  | .storeBcd x => bcdDigits (s.reg x)
  | .storeRegisters x => s.regBlock x
  | _ => []

/-- The counter of random draws after a completed instruction. -/
def drawsAfter (i : Instr) (s : State) : Nat :=
  match i with
  | .random _ _ => s.draws + 1
  | _ => s.draws

/-- The state after a completed instruction. The fields not named here are written by no instruction. -/
def completed (i : Instr) (s : State) : State :=
  { s with
    v := vAfter i s
    index := indexAfter i s
    pc := pcAfter i s
    sp := spAfter i s
    stack := stackAfter i s
    dt := dtAfter i s
    st := stAfter i s
    fb := fbAfter i s
    dirty := if marksDirty i then true else s.dirty
    mem := (s.storeFrom s.ea (storedBytes i s)).mem
    reply := if marksDirty i then .issued .displayDirty none else s.reply
    draws := drawsAfter i s }

/-! ### What the shared operations come to, field by field -/

/-- A taken or not taken skip moves `pc` alone. -/
theorem State.advance_skipIf (s : State) (c : Bool) :
    s.advance.skipIf c = { s with pc := if c = true then s.pc + 4 else s.pc + 2 } := by
  have hpc := s.skipIf_advance_pc c
  cases c
  · rfl
  · rw [← hpc]; rfl

/-- The index advance writes `I` alone. -/
theorem State.advanceIndex_eq_blockIndex (s : State) (x : Reg) : s.advanceIndex x = s.setIndex (s.blockIndex x) := by
  cases h : s.cfg.loadStoreIncrement with
  | none => rw [State.advanceIndex_none s x h, State.blockIndex, h]; rfl
  | xPlusOne => rw [State.advanceIndex_xPlusOne s x h, State.blockIndex, h]; rfl

/-- What stores leave in memory depends on memory and the parameters alone. -/
theorem State.storeFrom_mem_congr {s t : State} (hm : t.mem = s.mem) (hc : t.cfg = s.cfg) (a : Nat) (bs : List Byte) :
    (t.storeFrom a bs).mem = (s.storeFrom a bs).mem := by
  induction bs generalizing s t a with
  | nil => exact hm
  | cons b bs ih => exact ih (by simp only [State.writeByte_mem, hm, hc]) (by simp only [State.writeByte_cfg, hc]) _

/-- Stores after the fetch advance write `pc` and memory alone. -/
theorem State.advance_storeFrom (s : State) (a : Nat) (bs : List Byte) :
    s.advance.storeFrom a bs = { s with pc := s.pc + 2, mem := (s.storeFrom a bs).mem } := by
  have hmem : (s.advance.storeFrom a bs).mem = (s.storeFrom a bs).mem :=
    State.storeFrom_mem_congr (s := s) (t := s.advance) rfl rfl a bs
  rw [State.storeFrom_eq, hmem]
  rfl

/-- The snapshot has a lowest key exactly when it has a key. -/
theorem lowestKey_eq_none_iff (ks : Vector Bool 16) : lowestKey ks = none ↔ ¬∃ k : Reg, ks[k] = true := by
  simp only [lowestKey_none, not_exists, Bool.not_eq_true]

/-! ### How an instruction ends -/

/-- What an instruction answers where the table of causes lists no fault: `call` and `return` stop with `SP` above 16
(log 9), and everything else completes. -/
def finish (i : Instr) (s : State) : Result :=
  if usesStack i = true ∧ 16 < s.sp.toNat then .fault .stackPointerOutOfRange else .next (completed i s)

/-- A skip leaves `pc` where `pcAfter` says, so it completes. -/
theorem skip_completes {i : Instr} {s : State} {c : Bool} (hi : completed i s = { s with pc := pcAfter i s })
    (hpc : pcAfter i s = if c = true then s.pc + 4 else s.pc + 2) :
    Host.Outcome.next (s.advance.skipIf c) = (.next (completed i s) : Result) := by
  rw [hi, hpc, State.advance_skipIf]

/-- The stores and loads through `I` that are in their bounds complete. -/
theorem storeBcd_completes (x : Reg) (s : State) :
    s.advance.storeFrom s.ea (bcdDigits (s.reg x)) = completed (.storeBcd x) s :=
  State.advance_storeFrom s _ _

theorem storeRegisters_completes (x : Reg) (s : State) :
    (s.advance.storeFrom s.ea (s.regBlock x)).advanceIndex x = completed (.storeRegisters x) s := by
  rw [State.advance_storeFrom, State.advanceIndex_eq_blockIndex]
  rfl

theorem loadRegisters_completes (x : Reg) (s : State) :
    (s.advance.setRegs (s.bytesFrom s.ea (x.val + 1))).advanceIndex x = completed (.loadRegisters x) s := by
  rw [State.advanceIndex_eq_blockIndex]
  rfl

theorem addToIndex_completes (x : Reg) (s : State) :
    exec (.addToIndex x) s = .next (completed (.addToIndex x) s) := by
  cases h : s.cfg.indexOverflowFlag <;> simp [exec, execAddToIndex, completed, vAfter, h] <;> rfl

/-- `wait-for-key` moves `pc` and writes its register exactly when the snapshot has a key (44_keys_timers.md R236). -/
theorem waitForKey_completes (x : Reg) (s : State) :
    exec (.waitForKey x) s = .next (completed (.waitForKey x) s) := by
  rw [exec_waitForKey]
  cases h : lowestKey s.keys with
  | none =>
    have hpc : pcAfter (.waitForKey x) s = s.pc := if_neg ((lowestKey_eq_none_iff s.keys).1 h)
    rw [completed, hpc, vAfter, h]
    rfl
  | some k =>
    have hpc : pcAfter (.waitForKey x) s = s.pc + 2 := if_pos ⟨k, ((lowestKey_some s.keys k).1 h).1⟩
    rw [completed, hpc, vAfter, h]
    rfl

/-- What every instruction answers: the listed fault, the model's stop, or its completed state. -/
theorem exec_eq (i : Instr) (s : State) :
    exec i s = (listedFault i s).elim (finish i s) fun f => .next (s.raise f) := by
  cases i with
  | call nnn =>
    rw [exec_call, listedFault, finish]
    by_cases hfull : s.sp.toNat = 16
    · rw [if_pos hfull, if_pos hfull]; rfl
    · rw [if_neg hfull, if_neg hfull]
      by_cases hroom : s.sp.toNat < 16
      · rw [if_pos hroom, Option.elim_none, if_neg (by omega)]; rfl
      · rw [if_neg hroom, Option.elim_none, if_pos ⟨rfl, by omega⟩]
  | ret =>
    rw [exec_ret, listedFault, finish]
    by_cases hempty : s.sp.toNat = 0
    · rw [if_pos hempty, if_pos hempty]; rfl
    · rw [if_neg hempty, if_neg hempty]
      by_cases hin : s.sp.toNat ≤ 16
      · rw [if_pos hin, Option.elim_none, if_neg (by omega), completed, pcAfter, ← sp_pred_toNat _ hempty]; rfl
      · rw [if_neg hin, Option.elim_none, if_pos ⟨rfl, by omega⟩]
  | draw x y n =>
    rw [exec_draw, listedFault]
    by_cases hb : n.toNat = 0 ∨ s.ea + n.toNat - 1 < 0x1000
    · rw [if_pos hb, if_neg (by omega)]; rfl
    · rw [if_neg hb, if_pos (by omega)]; rfl
  | storeBcd x =>
    rw [exec_storeBcd, listedFault, storeBcd_completes]
    by_cases hb : s.ea + 2 ≥ 0x1000 ∨ (s.cfg.protectReserved = true ∧ s.ea ≤ 0x1FF)
    · rw [if_pos hb, if_neg fun hc => hb.elim (by omega) hc.2]; rfl
    · obtain ⟨hlt, hfree⟩ := not_or.1 hb
      rw [if_neg hb, if_pos ⟨by omega, hfree⟩]; rfl
  | storeRegisters x =>
    rw [exec_storeRegisters, listedFault, storeRegisters_completes]
    by_cases hb : s.ea + x.val ≥ 0x1000 ∨ (s.cfg.protectReserved = true ∧ s.ea ≤ 0x1FF)
    · rw [if_pos hb, if_neg fun hc => hb.elim (by omega) hc.2]; rfl
    · obtain ⟨hlt, hfree⟩ := not_or.1 hb
      rw [if_neg hb, if_pos ⟨by omega, hfree⟩]; rfl
  | loadRegisters x =>
    rw [exec_loadRegisters, listedFault, loadRegisters_completes]
    by_cases hb : s.ea + x.val < 0x1000
    · rw [if_pos hb, if_neg (by omega)]; rfl
    · rw [if_neg hb, if_pos (by omega)]; rfl
  | loadFontAddress x =>
    rw [exec_loadFontAddress, listedFault]
    split <;> rfl
  | skipIfKeyPressed x =>
    rw [exec_skipIfKeyPressed, listedFault]
    by_cases hk : (s.reg x).toNat ≤ 15
    · rw [if_pos hk, if_neg (by omega)]
      exact skip_completes rfl rfl
    · rw [if_neg hk, if_pos (by omega)]; rfl
  | skipIfKeyNotPressed x =>
    rw [exec_skipIfKeyNotPressed, listedFault]
    by_cases hk : (s.reg x).toNat ≤ 15
    · rw [if_pos hk, if_neg (by omega)]
      refine skip_completes rfl ?_
      show (if keyDown s x then _ else _) = if (!keyDown s x) = true then _ else _
      cases keyDown s x <;> rfl
    · rw [if_neg hk, if_pos (by omega)]; rfl
  | skipIfEqualImmediate x kk => exact skip_completes rfl (by simp only [pcAfter, beq_iff_eq])
  | skipIfNotEqualImmediate x kk => exact skip_completes rfl (by simp only [pcAfter, bne_iff_ne, ne_eq, ite_not])
  | skipIfEqualRegisters x y => exact skip_completes rfl (by simp only [pcAfter, beq_iff_eq])
  | skipIfNotEqualRegisters x y => exact skip_completes rfl (by simp only [pcAfter, bne_iff_ne, ne_eq, ite_not])
  | addToIndex x => exact addToIndex_completes x s
  | waitForKey x => exact waitForKey_completes x s
  | _ => rfl

/-- An instruction that answers a next state either raised its listed fault or completed. -/
theorem exec_next_cases {i : Instr} {s t : State} (h : exec i s = .next t) :
    (∃ f, listedFault i s = some f ∧ t = s.raise f) ∨ (listedFault i s = none ∧ t = completed i s) := by
  rw [exec_eq] at h
  cases hl : listedFault i s with
  | some f => rw [hl] at h; cases h; exact .inl ⟨f, rfl, rfl⟩
  | none =>
    rw [hl, Option.elim_none, finish] at h
    split at h
    · cases h
    · cases h; exact .inr ⟨rfl, rfl⟩

theorem exec_of_listedFault {i : Instr} {s : State} {f : FaultKind} (h : listedFault i s = some f) :
    exec i s = .next (s.raise f) := by
  rw [exec_eq, h, Option.elim_some]

theorem exec_of_no_listedFault {i : Instr} {s : State} (h : listedFault i s = none)
    (hsp : usesStack i = true → s.sp.toNat ≤ 16) : exec i s = .next (completed i s) := by
  rw [exec_eq, h, Option.elim_none, finish, if_neg fun hc => by have := hsp hc.1; omega]

/-- Away from the stack, what faults on nothing completes. -/
theorem exec_completes {i : Instr} {s : State} (hi : usesStack i = false) (hl : listedFault i s = none) :
    exec i s = .next (completed i s) :=
  exec_of_no_listedFault hl fun hstack => absurd (hi.symm.trans hstack) Bool.false_ne_true

/-- A next state that is not `FAULTED` is the completed one. -/
theorem eq_completed_of_not_faulted {i : Instr} {s t : State} (h : exec i s = .next t) (ht : t.status ≠ .faulted) :
    listedFault i s = none ∧ t = completed i s := by
  rcases exec_next_cases h with ⟨f, _, rfl⟩ | hc
  · exact absurd rfl ht
  · exact hc

/-- No instruction raises `RomTooLarge`, the fault of a load (60_exceptions.md R261). -/
theorem listedFault_ne_romTooLarge {i : Instr} {s : State} {f : FaultKind} (h : listedFault i s = some f) :
    f ≠ .romTooLarge := by
  rintro rfl
  cases i <;> simp [listedFault] at h

end Sys2Proof.Machine
end

section
/-! SUPPORT. What a completed instruction leaves in memory, and every way a step can answer a next state. -/

namespace Sys2Proof.Machine

open Sys2Proof.Claims

/-! ### Memory after a completed instruction -/

/-- The byte at an address after a completed instruction: a stored one, or the old one. -/
theorem readByte_completed (i : Instr) (s : State) (a : Nat) :
    (completed i s).readByte a =
      if s.ea ≤ a ∧ a < s.ea + (storedBytes i s).length then ((storedBytes i s)[a - s.ea]?).getD 0 else s.readByte a := by
  have hread : (completed i s).readByte a = (s.storeFrom s.ea (storedBytes i s)).readByte a := by
    simp only [State.readByte, State.storeFrom_cfg]
    rfl
  rw [hread, State.readByte_storeFrom]

/-- An instruction that is no store leaves every byte of memory. -/
theorem readByte_completed_of_not_store {i : Instr} (hi : isStore i = false) (s : State) (a : Nat) :
    (completed i s).readByte a = s.readByte a := by
  have hnone : storedBytes i s = [] := by
    cases i with
    | storeBcd x => cases hi
    | storeRegisters x => cases hi
    | _ => rfl
  rw [readByte_completed, hnone, List.length_nil, if_neg (by omega)]

theorem listedFault_storeBcd_eq_none (x : Reg) (s : State) :
    listedFault (.storeBcd x) s = none ↔ s.ea + 2 < 0x1000 ∧ ¬(s.cfg.protectReserved = true ∧ s.ea ≤ 0x1FF) := by
  simp only [listedFault, ite_eq_right_iff, reduceCtorEq, imp_false, not_or, not_le, ge_iff_le]

theorem listedFault_storeRegisters_eq_none (x : Reg) (s : State) :
    listedFault (.storeRegisters x) s = none ↔
      s.ea + x.val < 0x1000 ∧ ¬(s.cfg.protectReserved = true ∧ s.ea ≤ 0x1FF) := by
  simp only [listedFault, ite_eq_right_iff, reduceCtorEq, imp_false, not_or, not_le, ge_iff_le]

/-- A store that faults on nothing stores in bounds and above the protected region (20_memory.md R54, R57). -/
theorem storedBytes_legal {i : Instr} {s : State} (h : listedFault i s = none) (hne : storedBytes i s ≠ []) :
    s.ea + (storedBytes i s).length ≤ memSize ∧ ¬(s.cfg.protectReserved = true ∧ s.ea ≤ reservedEnd) := by
  cases i with
  | storeBcd x =>
    obtain ⟨hlt, hfree⟩ := (listedFault_storeBcd_eq_none x s).1 h
    exact ⟨hlt, hfree⟩
  | storeRegisters x =>
    obtain ⟨hlt, hfree⟩ := (listedFault_storeRegisters_eq_none x s).1 h
    rw [storedBytes, State.regBlock_length]
    exact ⟨hlt, hfree⟩
  | _ => exact absurd rfl hne

/-! ### A step -/

/-- The ways a step can answer a next state (20_memory.md R65). -/
inductive StepsTo (s : State) : State → Prop
  | fault (f : FaultKind) (he : s.nextEvent = .issue) (hrun : s.status = .running) (hf : f ≠ .romTooLarge) :
    StepsTo s (s.popEvent.beginStep.raise f)
  | completed (i : Instr) (he : s.nextEvent = .issue) (hrun : s.status = .running) (hpc : s.pc.toNat + 1 < 0x1000)
    (hl : listedFault i s.popEvent.beginStep = none) : StepsTo s (completed i s.popEvent.beginStep)
  | ignored (he : s.nextEvent = .issue) (hrun : s.status ≠ .running) : StepsTo s s.popEvent.ignorePulse
  | tick (he : s.nextEvent = .tick) : StepsTo s s.popEvent.tick
  | keyWrite (ks : Vector Bool 16) (he : s.nextEvent = .keyWrite ks) : StepsTo s (s.popEvent.keyWrite ks)
  | displayRead (he : s.nextEvent = .displayRead) : StepsTo s s.popEvent.displayRead
  | loaded (cfg : Config) (rom : List Byte) (he : s.nextEvent = .romLoad cfg rom) (hlen : rom.length ≤ 3584) :
    StepsTo s (s.popEvent.reload cfg rom)
  | rejected (cfg : Config) (rom : List Byte) (he : s.nextEvent = .romLoad cfg rom) (hlen : 3584 < rom.length) :
    StepsTo s { s.popEvent with reply := .rejected .romTooLarge }

theorem pc_of_fetchWord_eq_some {s : State} {w : Word} (h : s.fetchWord = some w) : s.pc.toNat + 1 < 0x1000 := by
  rw [State.fetchWord_eq] at h
  by_contra hpc
  rw [if_neg hpc] at h
  cases h

/-- An instruction step of a running engine faults or completes. -/
theorem stepsTo_of_runInstruction {s t : State} (he : s.nextEvent = .issue) (hrun : s.status = .running)
    (h : runInstruction s.popEvent.beginStep = .next t) : StepsTo s t := by
  rcases runInstruction_cases _ _ h with ⟨_, ht⟩ | ⟨w, _, _, ht⟩ | ⟨w, i, hw, _, ht⟩
  · cases ht
    exact .fault _ he hrun (by decide)
  · cases ht
    exact .fault _ he hrun (by decide)
  · rcases exec_next_cases ht.symm with ⟨f, hf, rfl⟩ | ⟨hl, rfl⟩
    · exact .fault f he hrun (listedFault_ne_romTooLarge hf)
    · exact .completed i he hrun (pc_of_fetchWord_eq_some hw) hl

/-- Every step that answers a next state is one of them. -/
theorem stepsTo_of_step {s t : State} (h : step s = .next t) : StepsTo s t := by
  rcases step_cases s _ h with ⟨he, hrun, ht⟩ | ⟨he, hrun, ht⟩ | ⟨he, ht⟩ | ⟨ks, he, ht⟩ | ⟨he, ht⟩ | ⟨cfg, rom, he, ht⟩
  · exact stepsTo_of_runInstruction he hrun ht.symm
  · cases ht; exact .ignored he hrun
  · cases ht; exact .tick he
  · cases ht; exact .keyWrite ks he
  · cases ht; exact .displayRead he
  · cases ht
    rcases s.popEvent.romLoad_cases cfg rom with ⟨hlen, hload⟩ | ⟨hlen, hload⟩
    · rw [hload]; exact .loaded cfg rom he hlen
    · rw [hload]; exact .rejected cfg rom he hlen

end Sys2Proof.Machine
end

section
/-! PROOFS. The invariants every step keeps. -/

namespace Sys2Proof.Machine

open Sys2Proof.Claims

/-! ### Memory -/

/-- A completed instruction keeps memory canonical, since its stores are in bounds. -/
theorem completed_memoryWf {i : Instr} {s : State} (hl : listedFault i s = none) (hs : s.memoryWf) :
    (completed i s).memoryWf := by
  refine State.storeFrom_wf s s.ea (storedBytes i s) (fun k hk => ?_) hs
  have hlegal := storedBytes_legal hl (List.ne_nil_of_length_pos (by omega))
  omega

/-- Settles O7: a step stores only when a store completes, in bounds, and a load writes a ROM that fits. -/
theorem stepKeepsMemoryCanonical : Obligations.StepKeepsMemoryCanonical := by
  intro s t hs h
  cases stepsTo_of_step h with
  | completed i _ _ _ hl => exact completed_memoryWf hl hs
  | loaded cfg rom _ hlen => exact Memory.wf_ofBytes cfg romBase rom (by rw [romBase, memSize]; omega)
  | _ => exact hs

/-- A completed store under `PROTECT_RESERVED` begins above the reserved region, so it leaves the region intact. -/
theorem completed_reservedIntact {i : Instr} {s : State} (hl : listedFault i s = none) (hs : s.reservedIntact) :
    (completed i s).reservedIntact := by
  intro hp a ha
  have hout : ¬(s.ea ≤ a ∧ a < s.ea + (storedBytes i s).length) := by
    rintro ⟨hle, hlt⟩
    have hlegal := storedBytes_legal hl (List.ne_nil_of_length_pos (by omega))
    exact hlegal.2 ⟨hp, hle.trans ha⟩
  rw [readByte_completed, if_neg hout]
  exact hs hp a ha

/-- Settles O10: a store that completes under `PROTECT_RESERVED` begins above 0x1FF, and a load gives the region its
reset contents under the parameters it brings. -/
theorem stepKeepsReservedRegionIntact : Obligations.StepKeepsReservedRegionIntact := by
  intro s t hs h
  cases stepsTo_of_step h with
  | completed i _ _ _ hl => exact completed_reservedIntact hl hs
  | loaded cfg rom _ _ =>
    intro _ a ha
    have : ¬0x200 ≤ a := by rw [reservedEnd] at ha; omega
    rw [State.readByte_reload, if_neg fun hin => this hin.1]
    rfl
  | _ => exact hs

/-! ### The stack pointer and the program counter -/

theorem listedFault_call_eq_none (nnn : Addr12) (s : State) : listedFault (.call nnn) s = none ↔ s.sp.toNat ≠ 16 := by
  simp only [listedFault, ite_eq_right_iff, reduceCtorEq, imp_false, ne_eq]

theorem listedFault_ret_eq_none (s : State) : listedFault .ret s = none ↔ s.sp.toNat ≠ 0 := by
  simp only [listedFault, ite_eq_right_iff, reduceCtorEq, imp_false, ne_eq]

theorem completed_spInRange {i : Instr} {s : State} (hl : listedFault i s = none) (hs : s.spInRange) :
    (completed i s).spInRange := by
  have hle : s.sp.toNat ≤ 16 := hs
  show (spAfter i s).toNat ≤ 16
  cases i with
  | call nnn =>
    have hne := (listedFault_call_eq_none nnn s).1 hl
    rw [spAfter, sp_succ_toNat _ (by omega)]
    omega
  | ret =>
    have hne := (listedFault_ret_eq_none s).1 hl
    rw [spAfter, sp_pred_toNat _ hne]
    omega
  | _ => exact hs

/-- An addition to `pc` moves it by at most what is added. -/
theorem pc_add_toNat_le (pc k : Word) : (pc + k).toNat ≤ pc.toNat + k.toNat := by
  rw [BitVec.toNat_add]
  exact Nat.mod_le _ _

/-- `pc` after a completed instruction: a jump target, a return address, or an advanced fetch address (10_state.md R26). -/
theorem pcAfter_le {i : Instr} {s : State} (hpc : s.pc.toNat + 1 < 0x1000) (hl : listedFault i s = none)
    (hsp : s.spInRange) (hstack : ∀ k : Fin 16, s.stack[k].toNat ≤ 0x1000) : (pcAfter i s).toNat ≤ 0x10FE := by
  have hle : s.sp.toNat ≤ 16 := hsp
  have h2 : (s.pc + 2).toNat ≤ 0x10FE := (pc_add_toNat_le s.pc 2).trans (by show s.pc.toNat + 2 ≤ _; omega)
  have h4 : (s.pc + 4).toNat ≤ 0x10FE := (pc_add_toNat_le s.pc 4).trans (by show s.pc.toNat + 4 ≤ _; omega)
  have hskip (c : Prop) [Decidable c] : (if c then s.pc + 4 else s.pc + 2).toNat ≤ 0x10FE := by split <;> assumption
  have hskip' (c : Prop) [Decidable c] : (if c then s.pc + 2 else s.pc + 4).toNat ≤ 0x10FE := by split <;> assumption
  cases i with
  | jump nnn =>
    have hnnn := addrWord_toNat nnn
    show (addrWord nnn).toNat ≤ 0x10FE
    omega
  | call nnn =>
    have hnnn := addrWord_toNat nnn
    show (addrWord nnn).toNat ≤ 0x10FE
    omega
  | jumpOffset nnn =>
    have hsum := s.offsetTarget_toNat nnn
    show (s.offsetTarget nnn).toNat ≤ 0x10FE
    omega
  | ret =>
    have hne := (listedFault_ret_eq_none s).1 hl
    rw [pcAfter, State.stackAt_of_lt s _ (by omega)]
    exact (hstack ⟨s.sp.toNat - 1, by omega⟩).trans (by omega)
  | waitForKey x =>
    rw [pcAfter]
    split <;> omega
  | skipIfEqualImmediate x kk => exact hskip _
  | skipIfEqualRegisters x y => exact hskip _
  | skipIfKeyPressed x => exact hskip _
  | skipIfNotEqualImmediate x kk => exact hskip' _
  | skipIfNotEqualRegisters x y => exact hskip' _
  | skipIfKeyNotPressed x => exact hskip' _
  | _ => exact h2

/-- A completed instruction pushes at most an advanced fetch address. -/
theorem stackAfter_le {s : State} (i : Instr) (hpc : s.pc.toNat + 1 < 0x1000)
    (hstack : ∀ k : Fin 16, s.stack[k].toNat ≤ 0x1000) (k : Fin 16) : (stackAfter i s)[k].toNat ≤ 0x1000 := by
  cases i with
  | call nnn =>
    have hpush : (s.pc + 2).toNat ≤ 0x1000 := (pc_add_toNat_le s.pc 2).trans hpc
    simp only [stackAfter, Fin.getElem_fin, Vector.getElem_setIfInBounds]
    split
    · exact hpush
    · exact hstack k
  | _ => exact hstack k

theorem reset_pcInRange : State.reset.pcInRange := by
  refine ⟨by decide, fun k => ?_⟩
  simp [State.reset]

/-- Settles O8: only `call` and `return` move `SP`, which they do only where it stays in range; `pc` and the stack get
jump targets, return addresses and advanced fetch addresses alone. -/
theorem stepKeepsStackPointerAndPcInRange : Obligations.StepKeepsStackPointerAndPcInRange := by
  constructor
  · intro s t hs h
    cases stepsTo_of_step h with
    | completed i _ _ _ hl => exact completed_spInRange hl hs
    | loaded cfg rom _ _ => exact (by decide : State.reset.sp.toNat ≤ 16)
    | _ => exact hs
  · rintro s t ⟨hpc, hstack⟩ hsp h
    cases stepsTo_of_step h with
    | completed i _ _ hin hl => exact ⟨pcAfter_le hin hl hsp hstack, stackAfter_le i hin hstack⟩
    | loaded cfg rom _ _ => exact reset_pcInRange
    | _ => exact ⟨hpc, hstack⟩

/-! ### The fault registers -/

/-- Settles O9: only a fault entry, which latches the address `pc` keeps, enters `FAULTED`, only a load leaves it, and
nothing else writes a fault register; in `FAULTED` no step but a load moves `pc`. -/
theorem stepKeepsFaultRegistersAgreed : Obligations.StepKeepsFaultRegistersAgreed := by
  intro s t hs h
  cases stepsTo_of_step h with
  | fault f _ _ hf => exact ⟨fun hne => absurd rfl hne, fun _ => ⟨rfl, f, hf, rfl⟩⟩
  | completed i _ hrun _ _ =>
    have hne : s.status ≠ .faulted := by rw [hrun]; decide
    exact ⟨hs.1, fun hfaulted => absurd hfaulted hne⟩
  | loaded cfg rom _ _ => exact ⟨fun _ => ⟨rfl, rfl, rfl⟩, nofun⟩
  | _ => exact hs

end Sys2Proof.Machine
end

section
/-! PROOFS. The statements of 30_encoding.md: decode and encode undo each other, and which words are unknown. -/

namespace Sys2Proof.Machine

open Sys2Proof.Claims Sys2Proof.Laws

/-! ### Decode of encode -/

/-- Some row of the table admits every instruction's word in both modes and builds the instruction back. -/
theorem encodeMatchesTable (i : Instr) : EncodeMatchesTable.Statement i :=
  match i with
  | .clearScreen => EncodeMatchesTable.clearScreen
  | .ret => EncodeMatchesTable.ret
  | .jump nnn => EncodeMatchesTable.jump nnn
  | .call nnn => EncodeMatchesTable.call nnn
  | .skipIfEqualImmediate x kk => EncodeMatchesTable.skipIfEqualImmediate x kk
  | .skipIfNotEqualImmediate x kk => EncodeMatchesTable.skipIfNotEqualImmediate x kk
  | .skipIfEqualRegisters x y => EncodeMatchesTable.skipIfEqualRegisters x y
  | .skipIfNotEqualRegisters x y => EncodeMatchesTable.skipIfNotEqualRegisters x y
  | .loadImmediate x kk => EncodeMatchesTable.loadImmediate x kk
  | .addImmediate x kk => EncodeMatchesTable.addImmediate x kk
  | .aluLoad x y => EncodeMatchesTable.aluLoad x y
  | .aluOr x y => EncodeMatchesTable.aluOr x y
  | .aluAnd x y => EncodeMatchesTable.aluAnd x y
  | .aluXor x y => EncodeMatchesTable.aluXor x y
  | .aluAdd x y => EncodeMatchesTable.aluAdd x y
  | .aluSub x y => EncodeMatchesTable.aluSub x y
  | .aluShr x y => EncodeMatchesTable.aluShr x y
  | .aluSubn x y => EncodeMatchesTable.aluSubn x y
  | .aluShl x y => EncodeMatchesTable.aluShl x y
  | .loadIndex nnn => EncodeMatchesTable.loadIndex nnn
  | .jumpOffset nnn => EncodeMatchesTable.jumpOffset nnn
  | .random x kk => EncodeMatchesTable.random x kk
  | .draw x y n => EncodeMatchesTable.draw x y n
  | .skipIfKeyPressed x => EncodeMatchesTable.skipIfKeyPressed x
  | .skipIfKeyNotPressed x => EncodeMatchesTable.skipIfKeyNotPressed x
  | .loadDelayTimer x => EncodeMatchesTable.loadDelayTimer x
  | .waitForKey x => EncodeMatchesTable.waitForKey x
  | .setDelayTimer x => EncodeMatchesTable.setDelayTimer x
  | .setSoundTimer x => EncodeMatchesTable.setSoundTimer x
  | .addToIndex x => EncodeMatchesTable.addToIndex x
  | .loadFontAddress x => EncodeMatchesTable.loadFontAddress x
  | .storeBcd x => EncodeMatchesTable.storeBcd x
  | .storeRegisters x => EncodeMatchesTable.storeRegisters x
  | .loadRegisters x => EncodeMatchesTable.loadRegisters x

/-- Settles O13: the row that admits the instruction's word is the only one, since the rows are disjoint. -/
theorem decodeOfEncodeIsTheInstruction : Obligations.DecodeOfEncodeIsTheInstruction := by
  intro strict i
  obtain ⟨k, r, hk, hlax, hstrict, hbuild⟩ := encodeMatchesTable i
  have hadmits : rowAdmits strict (encode i) r = true := by
    cases strict
    · exact hlax
    · exact hstrict
  rw [decode_of_row strict _ r (List.mem_of_getElem? hk) hadmits, hbuild]

/-! ### Encode of decode, in strict mode -/

/-- The group of a word that a mask of the group admits. -/
theorem group_eq_of_and {w m : Word} {g : Nibble} {x : Reg} {kk : Byte} (hm : m.extractLsb' 12 4 = 0xF#4)
    (h : w &&& m = wordXkk g x kk) : w.extractLsb' 12 4 = g := by
  have hg : (wordXkk g x kk).extractLsb' 12 4 = g := by
    ext i hi
    simp only [BitVec.getElem_extractLsb', getLsbD_wordXkk]
    rw [if_neg (by omega), if_neg (by omega), Nat.add_sub_cancel_left, BitVec.getLsbD_eq_getElem hi]
  rw [← hg, ← h, BitVec.extractLsb'_and, hm, and_allOnes4]

/-- A word whose group is `g` is `g` with the word's `nnn`. -/
theorem wordNnn_of_group {w : Word} (g : Nibble) (h : w &&& 0xF000 = wordXkk g 0 0) : wordNnn g (fieldNnn w) = w := by
  have hw := wordNnn_fields w
  rwa [group_eq_of_and (by decide) h] at hw

/-- A word whose group is `g` is `g` with the word's `x` and `kk`. -/
theorem wordXkk_of_group {w : Word} (g : Nibble) (h : w &&& 0xF000 = wordXkk g 0 0) :
    wordXkk g (fieldX w) (fieldKk w) = w := by
  have hw := wordXkk_fields w
  rwa [group_eq_of_and (by decide) h] at hw

/-- The low byte of a word is its `y` and its `n`. -/
theorem fieldY_append_fieldN (w : Word) : regBits (fieldY w) ++ fieldN w = fieldKk w := by
  have hy : regBits (fieldY w) = w.extractLsb' 4 4 := regBits_of_toFin _
  refine BitVec.eq_of_getLsbD_eq fun i hi => ?_
  simp only [BitVec.getLsbD_append, hy, fieldN, fieldKk, BitVec.getLsbD_extractLsb', Nat.zero_add]
  split
  · simp [*]
  · rw [decide_eq_true (by omega : i - 4 < 4), decide_eq_true hi, show 4 + (i - 4) = i by omega]

/-- A word whose group is `g` is `g` with the word's `x`, `y` and `n`. -/
theorem wordXyn_of_group {w : Word} (g : Nibble) (h : w &&& 0xF000 = wordXkk g 0 0) :
    wordXyn g (fieldX w) (fieldY w) (fieldN w) = w := by
  rw [wordXyn, fieldY_append_fieldN]
  exact wordXkk_of_group g h

/-- A word whose group is `g` and whose low nibble is `n` is these with the word's `x` and `y`. -/
theorem wordXyn_of_lowNibble {w : Word} (g n : Nibble) (h : w &&& 0xF00F = wordXyn g 0 0 n) :
    wordXyn g (fieldX w) (fieldY w) n = w := by
  have hgroup : w.extractLsb' 12 4 = g := group_eq_of_and (by decide) h
  have hn : fieldN w = n := by
    rw [← fieldN_wordXyn g 0 0 n, ← h, fieldN, fieldN, BitVec.extractLsb'_and]
    exact (and_allOnes4 _).symm
  have hw := wordXkk_fields w
  rw [hgroup, ← fieldY_append_fieldN, hn] at hw
  exact hw

/-- A word whose group is `g` and whose low byte is `kk` is these with the word's `x`. -/
theorem wordXkk_of_lowByte {w : Word} (g : Nibble) (kk : Byte) (h : w &&& 0xF0FF = wordXkk g 0 kk) :
    wordXkk g (fieldX w) kk = w := by
  have hgroup : w.extractLsb' 12 4 = g := group_eq_of_and (by decide) h
  have hkk : fieldKk w = kk := by
    rw [← fieldKk_wordXkk g 0 kk, ← h, fieldKk, fieldKk, BitVec.extractLsb'_and]
    exact (BitVec.and_allOnes (x := w.extractLsb' 0 8)).symm
  have hw := wordXkk_fields w
  rwa [hgroup, hkk] at hw

/-- The word a strict row admits is the encoding of what the row builds from it (30_encoding.md R86). -/
def Row.encodesBack (r : Row) : Prop := ∀ w : Word, w &&& r.strictMask = r.strictPattern → encode (r.build w) = w

theorem rowsImmediate_encodeBack : ∀ r ∈ rowsImmediate, Row.encodesBack r := by
  have hfixed {w p : Word} (h : w &&& 0xFFFF = p) : p = w := h.symm.trans BitVec.and_allOnes
  simp only [rowsImmediate, List.forall_mem_cons]
  exact ⟨fun _ => hfixed, fun _ => hfixed, fun _ => wordNnn_of_group 0x1, fun _ => wordNnn_of_group 0x2,
    fun _ => wordXkk_of_group 0x3, fun _ => wordXkk_of_group 0x4, fun _ => wordXyn_of_lowNibble 0x5 0x0,
    fun _ => wordXyn_of_lowNibble 0x9 0x0, fun _ => wordXkk_of_group 0x6, fun _ => wordXkk_of_group 0x7,
    List.forall_mem_nil _⟩

theorem rowsAlu_encodeBack : ∀ r ∈ rowsAlu, Row.encodesBack r := by
  simp only [rowsAlu, List.forall_mem_cons]
  exact ⟨fun _ => wordXyn_of_lowNibble 0x8 0x0, fun _ => wordXyn_of_lowNibble 0x8 0x1,
    fun _ => wordXyn_of_lowNibble 0x8 0x2, fun _ => wordXyn_of_lowNibble 0x8 0x3,
    fun _ => wordXyn_of_lowNibble 0x8 0x4, fun _ => wordXyn_of_lowNibble 0x8 0x5,
    fun _ => wordXyn_of_lowNibble 0x8 0x6, fun _ => wordXyn_of_lowNibble 0x8 0x7,
    fun _ => wordXyn_of_lowNibble 0x8 0xE, List.forall_mem_nil _⟩

theorem rowsMixed_encodeBack : ∀ r ∈ rowsMixed, Row.encodesBack r := by
  simp only [rowsMixed, List.forall_mem_cons]
  exact ⟨fun _ => wordNnn_of_group 0xA, fun _ => wordNnn_of_group 0xB, fun _ => wordXkk_of_group 0xC,
    fun _ => wordXyn_of_group 0xD, fun _ => wordXkk_of_lowByte 0xE 0x9E, fun _ => wordXkk_of_lowByte 0xE 0xA1,
    List.forall_mem_nil _⟩

theorem rowsGroupF_encodeBack : ∀ r ∈ rowsGroupF, Row.encodesBack r := by
  simp only [rowsGroupF, List.forall_mem_cons]
  exact ⟨fun _ => wordXkk_of_lowByte 0xF 0x07, fun _ => wordXkk_of_lowByte 0xF 0x0A,
    fun _ => wordXkk_of_lowByte 0xF 0x15, fun _ => wordXkk_of_lowByte 0xF 0x18, fun _ => wordXkk_of_lowByte 0xF 0x1E,
    fun _ => wordXkk_of_lowByte 0xF 0x29, fun _ => wordXkk_of_lowByte 0xF 0x33, fun _ => wordXkk_of_lowByte 0xF 0x55,
    fun _ => wordXkk_of_lowByte 0xF 0x65, List.forall_mem_nil _⟩

theorem opcodeRows_encodeBack : ∀ r ∈ opcodeRows, Row.encodesBack r := by
  simp only [opcodeRows, List.forall_mem_append]
  exact ⟨⟨⟨rowsImmediate_encodeBack, rowsAlu_encodeBack⟩, rowsMixed_encodeBack⟩, rowsGroupF_encodeBack⟩

/-- Settles O14: every row's strict mask covers all bits that are no operand, and the lax mode decodes an encoding. -/
theorem strictDecodeLosesNoBit : Obligations.StrictDecodeLosesNoBit := by
  intro w i h
  obtain ⟨r, hr, hadmits, hbuild⟩ := (decode_known_iff true w i).1 h
  have hencode : encode i = w := by
    rw [← hbuild]
    exact opcodeRows_encodeBack r hr w (by simpa [rowAdmits] using hadmits)
  exact ⟨hencode, by rw [← hencode]; exact decodeOfEncodeIsTheInstruction false i⟩

/-! ### The unknown words -/

theorem toNat_wordXkk (g : Nibble) (x : Reg) (kk : Byte) :
    (wordXkk g x kk).toNat = g.toNat * 0x1000 + x.val * 0x100 + kk.toNat := by
  have hx : (regBits x).toNat = x.val := by rw [regBits, BitVec.toNat_ofNat]; omega
  rw [wordXkk, BitVec.toNat_append, BitVec.toNat_append, ← Nat.shiftLeft_add_eq_or_of_lt kk.isLt,
    ← Nat.shiftLeft_add_eq_or_of_lt (regBits x).isLt, hx, Nat.shiftLeft_eq, Nat.shiftLeft_eq]
  omega

/-- Mask 0xF000 leaves the group. -/
theorem toNat_and_group (w : Word) : (w &&& 0xF000#16).toNat = w.toNat / 0x1000 * 0x1000 := by
  rw [← wordXkk_fields w, ← BitVec.ofNat_eq_ofNat, group_wordXkk, toNat_wordXkk, toNat_wordXkk]
  have hkk := (fieldKk w).isLt
  have hx := (fieldX w).isLt
  show _ + 0 * 0x100 + 0 = _
  omega

/-- Mask 0xF00F leaves the group and the low nibble. -/
theorem toNat_and_lowNibble (w : Word) : (w &&& 0xF00F#16).toNat = w.toNat / 0x1000 * 0x1000 + w.toNat % 16 := by
  rw [← wordXkk_fields w, ← BitVec.ofNat_eq_ofNat, lowNibble_wordXkk, toNat_wordXkk, toNat_wordXkk]
  have hkk := (fieldKk w).isLt
  have hx := (fieldX w).isLt
  have hlow : (fieldKk w &&& 0x0F#8).toNat = (fieldKk w).toNat % 16 := Nat.and_two_pow_sub_one_eq_mod _ 4
  rw [hlow]
  show _ + 0 * 0x100 + _ = _
  omega

/-- Mask 0xF0FF leaves the group and the low byte. -/
theorem toNat_and_lowByte (w : Word) : (w &&& 0xF0FF#16).toNat = w.toNat / 0x1000 * 0x1000 + w.toNat % 256 := by
  rw [← wordXkk_fields w, ← BitVec.ofNat_eq_ofNat, lowByte_wordXkk, toNat_wordXkk, toNat_wordXkk]
  have hkk := (fieldKk w).isLt
  have hx := (fieldX w).isLt
  show _ + 0 * 0x100 + _ = _
  omega

/-- A row rejects a word when what its mask leaves of the word, as a number, is not its pattern. -/
theorem rowAdmits_false_iff (strict : Bool) (w : Word) (r : Row) :
    rowAdmits strict w r = false ↔
      if strict then (w &&& r.strictMask).toNat ≠ r.strictPattern.toNat else (w &&& r.mask).toNat ≠ r.pattern.toNat := by
  cases strict <;> simp [rowAdmits, BitVec.toNat_eq]

/-- Where a row fixes no further bit in strict mode, both modes reject the same words. -/
theorem reject_iff_reject_lax (strict : Bool) (w : Word) {rows : List Row}
    (h : ∀ r ∈ rows, r.strictMask = r.mask ∧ r.strictPattern = r.pattern) :
    (∀ r ∈ rows, rowAdmits strict w r = false) ↔ ∀ r ∈ rows, rowAdmits false w r = false := by
  refine forall₂_congr fun r hr => ?_
  obtain ⟨hmask, hpattern⟩ := h r hr
  cases strict
  · rfl
  · simp only [rowAdmits, hmask, hpattern, Bool.false_eq_true, if_false, if_true]

/-! Which words the rows of each part of the table reject, in lax and in strict mode, by the group, the low nibble and the
low byte. -/

section
variable (w : Word)

theorem rowsImmediate_reject_lax :
    (∀ r ∈ rowsImmediate, rowAdmits false w r = false) ↔
      ¬(w.toNat / 0x1000 = 0 ∧ (w.toNat % 16 = 0 ∨ w.toNat % 16 = 0xE)) ∧
        ¬(1 ≤ w.toNat / 0x1000 ∧ w.toNat / 0x1000 ≤ 7 ∨ w.toNat / 0x1000 = 9) := by
  simp only [rowsImmediate, List.forall_mem_cons, rowAdmits_false_iff, Bool.false_eq_true, if_false, toNat_and_group,
    toNat_and_lowNibble, BitVec.toNat_ofNat, BitVec.ofNat_eq_ofNat, List.not_mem_nil, false_implies, implies_true, and_true]
  omega

theorem rowsAlu_reject (strict : Bool) :
    (∀ r ∈ rowsAlu, rowAdmits strict w r = false) ↔
      ¬(w.toNat / 0x1000 = 8 ∧ (w.toNat % 16 ≤ 7 ∨ w.toNat % 16 = 0xE)) := by
  rw [reject_iff_reject_lax strict w (by decide)]
  simp only [rowsAlu, List.forall_mem_cons, rowAdmits_false_iff, Bool.false_eq_true, if_false,
    toNat_and_lowNibble, BitVec.toNat_ofNat, BitVec.ofNat_eq_ofNat, List.not_mem_nil, false_implies, implies_true, and_true]
  omega

theorem rowsMixed_reject_lax :
    (∀ r ∈ rowsMixed, rowAdmits false w r = false) ↔
      ¬(0xA ≤ w.toNat / 0x1000 ∧ w.toNat / 0x1000 ≤ 0xD) ∧
        ¬(w.toNat / 0x1000 = 0xE ∧ (w.toNat % 16 = 1 ∨ w.toNat % 16 = 0xE)) := by
  simp only [rowsMixed, List.forall_mem_cons, rowAdmits_false_iff, Bool.false_eq_true, if_false, toNat_and_group,
    toNat_and_lowNibble, BitVec.toNat_ofNat, BitVec.ofNat_eq_ofNat, List.not_mem_nil, false_implies, implies_true, and_true]
  omega

theorem rowsGroupF_reject (strict : Bool) :
    (∀ r ∈ rowsGroupF, rowAdmits strict w r = false) ↔
      ¬(w.toNat / 0x1000 = 0xF ∧ w.toNat % 256 ∈ [0x07, 0x0A, 0x15, 0x18, 0x1E, 0x29, 0x33, 0x55, 0x65]) := by
  rw [reject_iff_reject_lax strict w (by decide)]
  simp only [rowsGroupF, List.forall_mem_cons, rowAdmits_false_iff, Bool.false_eq_true, if_false,
    toNat_and_lowByte, BitVec.toNat_ofNat, BitVec.ofNat_eq_ofNat, List.not_mem_nil, false_implies, implies_true, and_true]
  simp only [List.mem_cons, List.not_mem_nil, or_false]
  omega

theorem rowsImmediate_reject_strict :
    (∀ r ∈ rowsImmediate, rowAdmits true w r = false) ↔
      w.toNat ≠ 0x00E0 ∧ w.toNat ≠ 0x00EE ∧ ¬(1 ≤ w.toNat / 0x1000 ∧ w.toNat / 0x1000 ≤ 7 ∧ w.toNat / 0x1000 ≠ 5) ∧
        ¬((w.toNat / 0x1000 = 5 ∨ w.toNat / 0x1000 = 9) ∧ w.toNat % 16 = 0) := by
  have hall : w &&& 0xFFFF#16 = w := BitVec.and_allOnes
  simp only [rowsImmediate, List.forall_mem_cons, rowAdmits_false_iff, if_true, toNat_and_group, hall,
    toNat_and_lowNibble, BitVec.toNat_ofNat, BitVec.ofNat_eq_ofNat, List.not_mem_nil, false_implies, implies_true, and_true]
  omega

theorem rowsMixed_reject_strict :
    (∀ r ∈ rowsMixed, rowAdmits true w r = false) ↔
      ¬(0xA ≤ w.toNat / 0x1000 ∧ w.toNat / 0x1000 ≤ 0xD) ∧
        ¬(w.toNat / 0x1000 = 0xE ∧ (w.toNat % 256 = 0x9E ∨ w.toNat % 256 = 0xA1)) := by
  simp only [rowsMixed, List.forall_mem_cons, rowAdmits_false_iff, if_true, toNat_and_group,
    toNat_and_lowByte, BitVec.toNat_ofNat, BitVec.ofNat_eq_ofNat, List.not_mem_nil, false_implies, implies_true, and_true]
  omega

end

/-- Settles O15: a word is unknown when all four parts of the table reject it. -/
theorem unknownWordsAreTheListedOnes : Obligations.UnknownWordsAreTheListedOnes := by
  intro w group n kk
  have hw := w.isLt
  have hE0 : w ≠ 0x00E0 ↔ w.toNat ≠ 0x00E0 := by rw [ne_eq, BitVec.toNat_eq]; rfl
  have hEE : w ≠ 0x00EE ↔ w.toNat ≠ 0x00EE := by rw [ne_eq, BitVec.toNat_eq]; rfl
  simp only [decode_unknown_iff, opcodeRows, List.forall_mem_append, rowsImmediate_reject_lax, rowsAlu_reject,
    rowsMixed_reject_lax, rowsGroupF_reject, rowsImmediate_reject_strict, rowsMixed_reject_strict, hE0, hEE]
  by_cases hF : w.toNat % 256 ∈ [0x07, 0x0A, 0x15, 0x18, 0x1E, 0x29, 0x33, 0x55, 0x65]
  · simp only [kk, group, n, hF, and_true, not_true_eq_false, and_false, or_false]
    omega
  · simp only [kk, group, n, hF, and_true, not_false_eq_true, and_false]
    omega

/-! ### The bits the lax mode ignores -/

/-- Four nibbles in a row are a word `gxyn`. -/
theorem nibbles_eq_wordXyn (g x y n : Nibble) : (g ++ x ++ y ++ n : Word) = wordXyn g x.toFin y.toFin n := by
  refine BitVec.eq_of_getLsbD_eq fun i _ => ?_
  simp only [wordXyn, getLsbD_wordXkk, regBits_of_toFin, BitVec.getLsbD_append, Nat.sub_sub]
  grind

/-- In lax mode a word of group 0 needs only its low nibble (30_encoding.md R83, R86). -/
theorem decode_lax_group0 (ignored : BitVec 8) :
    decode false (0x0#4 ++ ignored ++ 0x0#4) = .known .clearScreen ∧
      decode false (0x0#4 ++ ignored ++ 0xE#4) = .known .ret := by
  have hmask : (0x0#4 ++ ignored ++ 0x0#4) &&& (0xF00F : Word) = 0x0000 ∧
      (0x0#4 ++ ignored ++ 0xE#4) &&& (0xF00F : Word) = 0x000E := by revert ignored; decide
  obtain ⟨h0, hE⟩ := hmask
  exact ⟨decode_of_row false _ _ (List.mem_of_getElem? (i := 0) rfl) (by simp only [rowAdmits, h0]; rfl),
    decode_of_row false _ _ (List.mem_of_getElem? (i := 1) rfl) (by simp only [rowAdmits, hE]; rfl)⟩

/-- In lax mode a word of group 5 or 9 needs only its group, whatever its `n`. -/
theorem decode_lax_registerSkips (x y : Reg) (n : Nibble) :
    decode false (wordXyn 0x5 x y n) = .known (.skipIfEqualRegisters x y) ∧
      decode false (wordXyn 0x9 x y n) = .known (.skipIfNotEqualRegisters x y) := by
  constructor
  · rw [decode_of_row false _ _ (List.mem_of_getElem? (i := 6) rfl) (by simp only [rowAdmits, group_wordXyn]; rfl)]
    simp only [fieldX_wordXyn, fieldY_wordXyn]
  · rw [decode_of_row false _ _ (List.mem_of_getElem? (i := 7) rfl) (by simp only [rowAdmits, group_wordXyn]; rfl)]
    simp only [fieldX_wordXyn, fieldY_wordXyn]

/-- In lax mode a word of group E needs only its `x` and its low nibble, whatever its bits 7:4. -/
theorem decode_lax_keySkips (x y : Reg) :
    decode false (wordXyn 0xE x y 0xE) = .known (.skipIfKeyPressed x) ∧
      decode false (wordXyn 0xE x y 0x1) = .known (.skipIfKeyNotPressed x) := by
  constructor
  · rw [decode_of_row false _ _ (List.mem_of_getElem? (i := 23) rfl) (by simp only [rowAdmits, lowNibble_wordXyn]; rfl)]
    simp only [fieldX_wordXyn]
  · rw [decode_of_row false _ _ (List.mem_of_getElem? (i := 24) rfl) (by simp only [rowAdmits, lowNibble_wordXyn]; rfl)]
    simp only [fieldX_wordXyn]

/-- Settles O16: the 22 words of the table are evaluated; for the ignored bits one row admits all the words. -/
theorem tabledWordsDecodeAsTheTableSays : Obligations.TabledWordsDecodeAsTheTableSays := by
  refine ⟨by decide, decode_lax_group0, fun x y ignored => ?_, fun x ignored => ?_⟩
  · rw [nibbles_eq_wordXyn, nibbles_eq_wordXyn]
    exact decode_lax_registerSkips _ _ _
  · rw [nibbles_eq_wordXyn, nibbles_eq_wordXyn]
    exact decode_lax_keySkips _ _

end Sys2Proof.Machine
end

section
/-! PROOFS. The statements of 10_state.md and 70_reset_and_hazards.md: reset, power-on and the ROM load. -/

namespace Sys2Proof.Machine

open Sys2Proof.Claims

/-! ### Reset and power-on -/

theorem reset_reg (r : Reg) : State.reset.reg r = 0 := by simp [State.reg, State.reset]

theorem reset_stack (k : Fin 16) : State.reset.stack[k] = 0 := by simp [State.reset]

/-- Memory lists nothing at reset, so every address reads as its reset content. -/
theorem reset_readByte (a : Nat) : State.reset.readByte a = unlisted defaultConfig a := rfl

/-- Settles O1: the fields are the literals of `State.reset`, and memory is empty under the default font base. -/
theorem resetLeavesTheTabledState : Obligations.ResetLeavesTheTabledState :=
  ⟨reset_reg, rfl, rfl, rfl, reset_stack, rfl, rfl, fun k => by simp [State.reset], pixelAt_clearFb, rfl, rfl, rfl, rfl, rfl,
    reset_readByte⟩

/-- Settles O2: `IDLE` ignores the pulse, and the copy of no bytes is the empty memory. -/
theorem powerOnIsIdleUntilALoad : Obligations.PowerOnIsIdleUntilALoad := ⟨rfl, rfl, rfl⟩

theorem reset_faultRegsAgree : State.reset.faultRegsAgree := ⟨fun _ => ⟨rfl, rfl, rfl⟩, nofun⟩

/-- Settles O6: power-on differs from reset only in `STATUS`, `IDLE`, and in the reply. -/
theorem invariantsHoldAtReset : Obligations.InvariantsHoldAtReset := by
  have hmem : State.reset.memoryWf := Memory.wf_nil _
  have hsp : State.reset.spInRange := by unfold State.spInRange; decide
  have hreserved : State.reset.reservedIntact := fun _ a _ => reset_readByte a
  exact ⟨⟨hmem, hsp, reset_pcInRange, reset_faultRegsAgree, hreserved⟩,
    ⟨hmem, hsp, reset_pcInRange, ⟨fun _ => ⟨rfl, rfl, rfl⟩, nofun⟩, hreserved⟩⟩

/-! ### The ROM load -/

theorem act_romLoad_accepted (s : State) (cfg : Config) {rom : List Byte} (h : rom.length ≤ 3584) :
    act (.romLoad cfg rom) s = .next (s.reload cfg rom) := by
  rcases s.romLoad_cases cfg rom with ⟨_, hload⟩ | ⟨hlt, _⟩
  · rw [act, hload]
  · exact absurd h (Nat.not_le.2 hlt)

/-- The whole of memory after a load, in the words of 70_reset_and_hazards.md R300. -/
theorem readByte_reload_eq_loadedByte (s : State) (cfg : Config) (rom : List Byte) (a : Nat) :
    (s.reload cfg rom).readByte a = loadedByte cfg rom a := by
  have hbase : fontBaseAddr cfg.fontBase ≤ 0x050 := by cases cfg.fontBase <;> decide
  rw [State.readByte_reload, loadedByte, unlisted, fontSize]
  by_cases hrom : 0x200 ≤ a
  · rw [if_pos hrom]
    by_cases hin : a < 0x200 + rom.length
    · rw [if_pos ⟨hrom, hin⟩]
    · rw [if_neg fun hc => hin hc.2, if_neg (by omega), List.getElem?_eq_none (by omega), Option.getD_none]
  · rw [if_neg hrom, if_neg fun hc => hrom hc.1]
    by_cases hfont : fontBaseAddr cfg.fontBase ≤ a
    · rw [if_pos hfont]
      by_cases hend : a < fontBaseAddr cfg.fontBase + 80
      · rw [if_pos ⟨hfont, hend⟩]
      · rw [if_neg fun hc => hend hc.2, Vector.getElem?_eq_none (by omega), Option.getD_none]
    · rw [if_neg hfont, if_neg fun hc => hfont hc.1]

/-- Settles O3: an accepted load is `State.reload`, which takes every field but the parameters, memory, `KEYSTATE` and the
model's own from reset. -/
theorem romLoadResetsTheState : Obligations.RomLoadResetsTheState := by
  intro s cfg rom hlen
  exact ⟨_, act_romLoad_accepted s cfg hlen, reset_reg, rfl, rfl, rfl, reset_stack, rfl, rfl, pixelAt_clearFb, rfl, rfl, rfl,
    rfl, rfl, readByte_reload_eq_loadedByte s cfg rom, rfl, rfl⟩

/-- Settles O4: the other outcome of a load. -/
theorem oversizedRomIsRejected : Obligations.OversizedRomIsRejected := by
  intro s cfg rom hlen
  rcases s.romLoad_cases cfg rom with ⟨hle, _⟩ | ⟨_, hload⟩
  · exact absurd hlen (Nat.not_lt.2 hle)
  · rw [act, hload]

/-- Settles O5: the four clauses read `loadedByte` in its branches; the font ends below 0x200 for both bases. -/
theorem romIsCopiedVerbatim : Obligations.RomIsCopiedVerbatim := by
  intro s cfg rom hlen
  have hbase : fontBaseAddr cfg.fontBase ≤ 0x050 := by cases cfg.fontBase <;> decide
  refine ⟨_, act_romLoad_accepted s cfg hlen, fun i b hb => ?rom, fun a hle _ => ?tail, fun k => ?font,
    fun a hle hout => ?below⟩
  case rom =>
    rw [readByte_reload_eq_loadedByte, loadedByte, if_pos (by omega), Nat.add_sub_cancel_left, hb, Option.getD_some]
  case tail =>
    rw [readByte_reload_eq_loadedByte, loadedByte, if_pos (by omega), List.getElem?_eq_none (by omega), Option.getD_none]
  case font =>
    rw [readByte_reload_eq_loadedByte, loadedByte, if_neg (by omega), if_pos (by omega), Nat.add_sub_cancel_left]
    simp
  case below =>
    rw [readByte_reload_eq_loadedByte, loadedByte, if_neg (by omega)]
    rcases hout with hlt | hge
    · rw [if_neg (by omega)]
    · rw [if_pos (by omega), Vector.getElem?_eq_none (by omega), Option.getD_none]

end Sys2Proof.Machine
end

section
/-! PROOFS. The statements of 41_control_flow.md and 60_exceptions.md about a step: which agent moved, what an issue pulse
does, and how a fault is entered and left. -/

namespace Sys2Proof.Machine

open Sys2Proof.Claims

/-! ### An issue pulse -/

theorem step_of_issue {s : State} (he : s.nextEvent = .issue) : step s = issue s.popEvent := by
  rw [step, he, act]

/-- In `RUNNING` an issue pulse is an instruction step (41_control_flow.md R131). -/
theorem step_of_running {s : State} (hrun : s.status = .running) (he : s.nextEvent = .issue) :
    step s = runInstruction s.popEvent.beginStep := by
  rw [step_of_issue he, issue, State.popEvent_status, hrun]

/-- Settles O17: the state at the start of the step fetches the same word under the same parameters. -/
theorem stepRunsTheDecodedInstruction : Obligations.StepRunsTheDecodedInstruction := by
  intro s w i hrun he hw hd
  have hw' : s.popEvent.beginStep.fetchWord = some w := hw
  have hd' : decode s.popEvent.beginStep.cfg.decodeStrict w = .known i := hd
  rw [step_of_running hrun he, runInstruction, hw']
  simp only [hd']
  rfl

/-- Settles O19: outside the fetch bound there is no word, and an unknown word is raised before any instruction. -/
theorem fetchAndDecodeFaultBeforeExecution : Obligations.FetchAndDecodeFaultBeforeExecution := by
  constructor
  · intro s hrun he hpc
    have hw : s.popEvent.beginStep.fetchWord = none := by
      rw [State.fetchWord_eq]
      exact if_neg (by show ¬s.pc.toNat + 1 < 0x1000; omega)
    rw [step_of_running hrun he, runInstruction, hw, State.raise, hw]
    rfl
  · intro s w hrun he hw hd
    have hw' : s.popEvent.beginStep.fetchWord = some w := hw
    have hd' : decode s.popEvent.beginStep.cfg.decodeStrict w = .unknown w := hd
    rw [step_of_running hrun he, runInstruction, hw']
    simp only [hd', State.raise, hw']
    rfl

/-- In `IDLE` and in `FAULTED` the pulse is ignored. -/
theorem issue_of_not_running {s : State} (hne : s.status ≠ .running) : issue s = .next s.ignorePulse := by
  rw [issue]
  cases hs : s.status with
  | running => exact absurd hs hne
  | idle => rfl
  | faulted => rfl

/-- Settles O20: an ignored pulse writes only the reply, and the step only the agenda. -/
theorem issueIsIgnoredUnlessRunning : Obligations.IssueIsIgnoredUnlessRunning := by
  intro s hne he
  rw [step_of_issue he]
  exact issue_of_not_running hne

/-- Settles O44: `jump h` at `h` leaves the whole state at the start of its step. -/
theorem haltedProgramStaysAtItsHalt : Obligations.HaltedProgramStaysAtItsHalt := by
  rintro s h ⟨hrun, hpc, w, hw, hd⟩ he
  have hstep := stepRunsTheDecodedInstruction s w (.jump h) hrun he hw hd
  have hself : exec (.jump h) s.popEvent.beginStep = .next { s.popEvent.beginStep with pc := addrWord h } := rfl
  rw [← hpc] at hself
  exact ⟨s.popEvent.beginStep, hstep.trans hself, ⟨hrun, hpc, w, hw, hd⟩, rfl⟩

/-! ### Faults -/

/-- The hardware's entry of a fault is the model's `raise`, with the word the fetch reads (60_exceptions.md R265). -/
theorem raise_eq_faultEntry (s : State) (f : FaultKind) : s.raise f = faultEntry s f (s.fetchWord.getD 0x0000) := rfl

/-- Settles O21: `exec_eq` is the case split on the table of causes, and a completed instruction writes neither `STATUS` nor
a fault register. -/
theorem instructionsFaultExactlyAsListed : Obligations.InstructionsFaultExactlyAsListed := by
  intro i s w hsp hw
  cases hl : listedFault i s with
  | some f =>
    show exec i s = .next (faultEntry s f w)
    rw [exec_of_listedFault hl, raise_eq_faultEntry, hw, Option.getD_some]
  | none => exact ⟨completed i s, exec_of_no_listedFault hl fun _ => hsp, rfl, rfl, rfl, rfl⟩

/-- Settles O11: with `SP` in range the model's own stop is out of reach. -/
theorem stepAlwaysAnswersANextState : Obligations.StepAlwaysAnswersANextState := by
  intro s hsp
  have hexec (i : Instr) : ∃ t, exec i s.popEvent.beginStep = .next t := by
    cases hl : listedFault i s.popEvent.beginStep with
    | some f => exact ⟨_, exec_of_listedFault hl⟩
    | none => exact ⟨_, exec_of_no_listedFault hl fun _ => hsp⟩
  rcases step_cases s _ rfl with ⟨_, _, h⟩ | ⟨_, _, h⟩ | ⟨_, h⟩ | ⟨_, _, h⟩ | ⟨_, h⟩ | ⟨_, _, _, h⟩
  · rw [h]
    rcases runInstruction_cases _ _ rfl with ⟨_, h⟩ | ⟨_, _, _, h⟩ | ⟨_, i, _, _, h⟩
    · exact ⟨_, h⟩
    · exact ⟨_, h⟩
    · rw [h]; exact hexec i
  all_goals exact ⟨_, h⟩

/-- Settles O12: above 16 neither condition on `SP` holds. -/
theorem stackInstructionsStopAboveSixteen : Obligations.StackInstructionsStopAboveSixteen := by
  intro s nnn hsp
  exact ⟨by rw [exec_call, if_neg (by omega), if_neg (by omega)], by rw [exec_ret, if_neg (by omega), if_neg (by omega)]⟩

/-- Settles O22: of all the ways to step, only a fault changes `STATUS` to `FAULTED`. -/
theorem faultEntryIsPrecise : Obligations.FaultEntryIsPrecise := by
  intro s t hs h ht
  cases stepsTo_of_step h with
  | fault f he hrun hf => exact ⟨hrun, he, f, hf, rfl⟩
  | loaded cfg rom _ _ => cases ht
  | _ => exact absurd ht hs

/-- Settles O23: an engine that is not `RUNNING` runs no instruction, and each other agent writes its own field. -/
theorem faultedIsLeftOnlyByALoad : Obligations.FaultedIsLeftOnlyByALoad := by
  intro s t hs hload h
  have hnot : s.status ≠ .running := by rw [hs]; decide
  cases stepsTo_of_step h with
  | fault f _ hrun _ => exact absurd hrun hnot
  | completed i _ hrun _ _ => exact absurd hrun hnot
  | ignored _ _ => exact ⟨rfl, fun hc => hc.elim (absurd rfl) (absurd rfl), absurd rfl, absurd rfl⟩
  | tick he => exact ⟨rfl, fun _ => he, absurd rfl, absurd rfl⟩
  | keyWrite ks he => exact ⟨rfl, fun hc => hc.elim (absurd rfl) (absurd rfl), fun _ => he, absurd rfl⟩
  | displayRead he => exact ⟨rfl, fun hc => hc.elim (absurd rfl) (absurd rfl), absurd rfl, fun _ => he⟩
  | loaded cfg rom he hlen => exact absurd (hload cfg rom he) (Nat.not_lt.2 hlen)
  | rejected cfg rom _ _ => exact ⟨rfl, fun hc => hc.elim (absurd rfl) (absurd rfl), absurd rfl, absurd rfl⟩

/-! ### The timer clock and the host -/

theorem tick_iterate_timers (s : State) (k : Nat) :
    (State.tick^[k] s).dt.toNat = s.dt.toNat - k ∧ (State.tick^[k] s).st.toNat = s.st.toNat - k := by
  induction k with
  | zero => exact ⟨rfl, rfl⟩
  | succ k ih =>
    obtain ⟨ihdt, ihst⟩ := ih
    obtain ⟨hdt, hst⟩ := State.tick_timers_toNat (State.tick^[k] s)
    rw [Function.iterate_succ_apply', hdt, hst, ihdt, ihst]
    exact ⟨Nat.sub_sub _ _ _, Nat.sub_sub _ _ _⟩

/-- Settles O25: by induction on the ticks, whose clamped subtractions add up. -/
theorem ticksAddUp : Obligations.TicksAddUp := by
  refine ⟨tick_iterate_timers, fun s hs => BitVec.eq_of_toNat_eq ?_⟩
  rw [(tick_iterate_timers s timerRate).1, hs]
  rfl

/-- Settles O26: a key write sets the field whole, and every other way to step keeps it, a load included. -/
theorem onlyKeyWritesReplaceTheKeys : Obligations.OnlyKeyWritesReplaceTheKeys := by
  refine ⟨fun s ks => ⟨s.keyWrite ks, rfl, fun _ => rfl, rfl⟩, fun s t h hne => ?_⟩
  cases stepsTo_of_step h with
  | keyWrite ks he => exact he
  | _ => exact absurd rfl hne

/-- Settles O27: the two replies are read off `State.displayRead`. -/
theorem displayReadReturnsAndClears : Obligations.DisplayReadReturnsAndClears := by
  intro s
  exact ⟨s.displayRead, s.displayRead.displayRead, rfl, rfl, rfl, rfl⟩

/-- Settles O28: every way to step but an accepted load keeps the parameters. -/
theorem parametersChangeOnlyAtALoad : Obligations.ParametersChangeOnlyAtALoad := by
  intro s t h hne
  cases stepsTo_of_step h with
  | loaded cfg rom he hlen => exact ⟨rom, he, hlen⟩
  | _ => exact absurd rfl hne

end Sys2Proof.Machine
end

section
/-! PROOFS. The rules over all instructions: `pc`, the registers, `I`, memory, the stack, `DIRTY`, and what no instruction
reads. Each is read off the fields of the completed state. -/

namespace Sys2Proof.Machine

open Sys2Proof.Claims

/-! ### What each instruction writes -/

/-- Settles O29: a state that is not `FAULTED` is the completed one, and its `pc` is `pcAfter`. -/
theorem everyInstructionKeepsThePcDiscipline : Obligations.EveryInstructionKeepsThePcDiscipline := by
  intro i s t _ h ht
  obtain ⟨_, rfl⟩ := eq_completed_of_not_faulted h ht
  rfl

theorem reg_setReg_of_ne {r x : Reg} (h : r ≠ x) (s : State) (b : Byte) : (s.setReg x b).reg r = s.reg r := by
  rw [State.reg_setReg, if_neg h.symm]

theorem reg_setRegFlag_of_ne {r x : Reg} (hx : r ≠ x) (hflag : r ≠ 15) (s : State) (b c : Byte) :
    (s.setRegFlag x b c).reg r = s.reg r := by
  rw [State.reg_setRegFlag, if_neg hflag, if_neg hx.symm]

/-- A completed instruction keeps every register but its destination and, where it writes a flag, register 15. -/
theorem reg_completed {i : Instr} {s : State} {r : Reg} (hdest : ¬isDestination i r)
    (hflag : ¬(r = 15 ∧ writesFlag s.cfg i = true)) : (completed i s).reg r = s.reg r := by
  have h15 (hw : writesFlag s.cfg i = true) : r ≠ 15 := fun hr => hflag ⟨hr, hw⟩
  cases i with
  | loadImmediate x _ | addImmediate x _ | aluLoad x _ | aluOr x _ | aluAnd x _ | aluXor x _ | random x _
  | loadDelayTimer x => exact reg_setReg_of_ne hdest s _
  | aluAdd x _ | aluSub x _ | aluShr x _ | aluSubn x _ | aluShl x _ => exact reg_setRegFlag_of_ne hdest (h15 rfl) s _ _
  | draw x y n => exact reg_setReg_of_ne (h15 rfl) s _
  | addToIndex x =>
    cases hcfg : s.cfg.indexOverflowFlag with
    | false => exact State.reg_congr (by simp only [completed, vAfter, hcfg, Bool.false_eq_true, if_false]) r
    | true =>
      have hv : (completed (.addToIndex x) s).v = (s.setReg 15 (indexOverflowByte (s.indexSum x))).v := by
        simp only [completed, vAfter, hcfg, if_true]
      rw [State.reg_congr hv, reg_setReg_of_ne (h15 hcfg)]
  | waitForKey x =>
    cases hkey : lowestKey s.keys with
    | none => exact State.reg_congr (by simp only [completed, vAfter, hkey, Option.elim_none]) r
    | some k =>
      have hv : (completed (.waitForKey x) s).v = (s.setReg x (keyByte k)).v := by
        simp only [completed, vAfter, hkey, Option.elim_some]
      rw [State.reg_congr hv, reg_setReg_of_ne hdest]
  | loadRegisters x =>
    have hgt : ¬r.val < (s.bytesFrom s.ea (x.val + 1)).length := by
      rw [State.bytesFrom_length]
      exact fun hlt => hdest (Nat.le_of_lt_succ hlt)
    exact (State.reg_setRegs s _ r).trans (if_neg hgt)
  | _ => rfl

/-- Settles O30: a fault writes no register, and `reg_completed` is the other case. -/
theorem registersAreWrittenOnlyAsNamed : Obligations.RegistersAreWrittenOnlyAsNamed := by
  intro i s t r h hdest hflag
  rcases exec_next_cases h with ⟨f, _, rfl⟩ | ⟨_, rfl⟩
  · rfl
  · exact reg_completed hdest hflag

theorem indexAfter_of_not_writesIndex {i : Instr} {s : State} (h : writesIndex s.cfg i = false) :
    indexAfter i s = s.index := by
  cases i with
  | loadIndex _ | addToIndex _ | loadFontAddress _ => cases h
  | storeRegisters _ | loadRegisters _ => exact if_neg (by simpa [writesIndex] using h)
  | _ => rfl

theorem stack_of_not_usesStack {i : Instr} (s : State) (h : usesStack i = false) :
    stackAfter i s = s.stack ∧ spAfter i s = s.sp := by
  cases i with
  | call _ | ret => cases h
  | _ => exact ⟨rfl, rfl⟩

/-- Settles O31: a fault writes none of the three, and a completed instruction writes them field by field. -/
theorem indexMemoryAndStackAreWrittenOnlyAsNamed : Obligations.IndexMemoryAndStackAreWrittenOnlyAsNamed := by
  intro i s t h
  rcases exec_next_cases h with ⟨f, _, rfl⟩ | ⟨_, rfl⟩
  · exact ⟨fun _ => rfl, fun _ _ => rfl, fun _ => ⟨rfl, rfl⟩⟩
  · exact ⟨indexAfter_of_not_writesIndex, fun hi => readByte_completed_of_not_store hi s, stack_of_not_usesStack s⟩

theorem fbAfter_of_not_marksDirty {i : Instr} (s : State) (h : marksDirty i = false) : fbAfter i s = s.fb := by
  cases i with
  | clearScreen | draw _ _ _ => cases h
  | _ => rfl

/-- Settles O32: a fault keeps `DIRTY` and the pixels and answers itself, and a completed instruction keeps `STATUS`. -/
theorem onlyDisplayInstructionsMarkDirty : Obligations.OnlyDisplayInstructionsMarkDirty := by
  intro i s t hs h
  rcases exec_next_cases h with ⟨f, _, rfl⟩ | ⟨_, rfl⟩
  · exact ⟨fun hne => absurd rfl hne, fun hne => absurd rfl hne, fun _ => ⟨rfl, rfl, f, rfl⟩⟩
  · refine ⟨fun _ hi => ?_, fun _ hi => ?_, fun ht => absurd ht hs⟩
    · exact ⟨if_pos hi, if_pos hi⟩
    · have hi' : ¬marksDirty i = true := by rw [hi]; decide
      exact ⟨if_neg hi', fbAfter_of_not_marksDirty s hi, if_neg hi'⟩

/-! ### What no instruction reads -/

/-- An outcome with its next state changed. -/
def mapNext (g : State → State) : Result → Result
  | .next t => .next (g t)
  | o => o

theorem withSt_eq_mapNext (b : Byte) (o : Result) : withSt b o = mapNext (fun t => { t with st := b }) o := by
  cases o <;> rfl

theorem withDt_eq_mapNext (b : Byte) (o : Result) : withDt b o = mapNext (fun t => { t with dt := b }) o := by
  cases o <;> rfl

theorem withKeyState_eq_mapNext (ks : Vector Bool 16) (o : Result) :
    withKeyState ks o = mapNext (fun t => { t with keyState := ks }) o := by
  cases o <;> rfl

/-- Where a change of the start state shows as the change `g` after a fault and after completion, it shows as `g` after the
instruction. -/
theorem exec_of_change {i : Instr} {s s' : State} (g : State → State) (hl : listedFault i s' = listedFault i s)
    (hsp : s'.sp = s.sp) (hraise : ∀ f, s'.raise f = g (s.raise f)) (hc : completed i s' = g (completed i s)) :
    exec i s' = mapNext g (exec i s) := by
  rw [exec_eq, exec_eq i s, hl]
  cases listedFault i s with
  | some f => exact congrArg _ (hraise f)
  | none =>
    simp only [Option.elim_none, finish, hsp]
    split
    · rfl
    · exact congrArg _ hc

/-- The state with other timers and another `KEYSTATE`: the fields the other agents write (20_memory.md R65). -/
def State.withInputs (s : State) (dt st : Byte) (ks : Vector Bool 16) : State :=
  { s with dt := dt, st := st, keyState := ks }

section
variable (i : Instr) (s : State) (dt st : Byte) (ks : Vector Bool 16)

theorem bytesFrom_withInputs (a n : Nat) : (s.withInputs dt st ks).bytesFrom a n = s.bytesFrom a n :=
  State.bytesFrom_congr (s := s) (t := s.withInputs dt st ks) rfl rfl a n

/-- The registers an instruction leaves depend on no timer and no `KEYSTATE`, but for the one that reads `DT`. -/
theorem vAfter_withInputs (hdt : dt = s.dt ∨ ∀ x, i ≠ .loadDelayTimer x) :
    vAfter i (s.withInputs dt st ks) = vAfter i s := by
  cases i with
  | loadDelayTimer x =>
    rcases hdt with rfl | hne
    · rfl
    · exact absurd rfl (hne x)
  | draw x y n =>
    show (s.setReg 15 (collisionFlag (drawRows _ _ _ ((s.withInputs dt st ks).bytesFrom s.ea n.toNat) _).2)).v = _
    rw [bytesFrom_withInputs]
    rfl
  | loadRegisters x =>
    show (s.setRegs ((s.withInputs dt st ks).bytesFrom s.ea (x.val + 1))).v = _
    rw [bytesFrom_withInputs]
    rfl
  | _ => rfl

theorem fbAfter_withInputs : fbAfter i (s.withInputs dt st ks) = fbAfter i s := by
  cases i with
  | draw x y n =>
    show (drawRows _ _ _ ((s.withInputs dt st ks).bytesFrom s.ea n.toNat) _).1 = _
    rw [bytesFrom_withInputs]
    rfl
  | _ => rfl

/-- A completed instruction reads no timer and no `KEYSTATE`, but for the one that reads `DT`: their values reach only
their own fields. -/
theorem completed_withInputs (hdt : dt = s.dt ∨ ∀ x, i ≠ .loadDelayTimer x) :
    completed i (s.withInputs dt st ks) = (completed i s).withInputs (dtAfter i (s.withInputs dt st ks))
      (stAfter i (s.withInputs dt st ks)) ks := by
  have hmem : (completed i (s.withInputs dt st ks)).mem = (completed i s).mem :=
    State.storeFrom_mem_congr (s := s) (t := s.withInputs dt st ks) rfl rfl s.ea (storedBytes i s)
  have hrest : completed i (s.withInputs dt st ks) =
      { (completed i s).withInputs (dtAfter i (s.withInputs dt st ks)) (stAfter i (s.withInputs dt st ks)) ks with
        v := vAfter i (s.withInputs dt st ks)
        fb := fbAfter i (s.withInputs dt st ks)
        mem := (completed i (s.withInputs dt st ks)).mem } := rfl
  rw [hrest, vAfter_withInputs i s dt st ks hdt, fbAfter_withInputs, hmem]
  rfl

end

theorem stAfter_of_ne {i : Instr} (s : State) (h : ∀ x, i ≠ .setSoundTimer x) : stAfter i s = s.st := by
  cases i with
  | setSoundTimer x => exact absurd rfl (h x)
  | _ => rfl

theorem dtAfter_of_ne {i : Instr} (s : State) (h : ∀ x, i ≠ .setDelayTimer x) : dtAfter i s = s.dt := by
  cases i with
  | setDelayTimer x => exact absurd rfl (h x)
  | _ => rfl

/-- Settles O33: the completed state takes a timer only into that timer's own field, which the transfer that writes it
replaces. -/
theorem timersAreReadOnlyAsNamed : Obligations.TimersAreReadOnlyAsNamed := by
  intro i s b
  refine ⟨fun hst => ?sound, ?soundWritten, fun hread hwritten => ?delay, ?delayWritten⟩
  case sound =>
    have hc := completed_withInputs i s s.dt b s.keyState (.inl rfl)
    rw [stAfter_of_ne _ hst] at hc
    rw [withSt_eq_mapNext]
    exact exec_of_change _ rfl rfl (fun _ => rfl) hc
  case soundWritten =>
    rintro x rfl
    rfl
  case delay =>
    have hc := completed_withInputs i s b s.st s.keyState (.inr hread)
    rw [dtAfter_of_ne _ hwritten] at hc
    rw [withDt_eq_mapNext]
    exact exec_of_change _ rfl rfl (fun _ => rfl) hc
  case delayWritten =>
    rintro x rfl
    rfl

/-- Settles O34: the completed state takes `KEYSTATE` only into its own field. -/
theorem instructionsReadOnlyTheKeySnapshot : Obligations.InstructionsReadOnlyTheKeySnapshot := by
  intro i s ks
  rw [withKeyState_eq_mapNext]
  exact exec_of_change _ rfl rfl (fun _ => rfl) (completed_withInputs i s s.dt s.st ks (.inl rfl))

end Sys2Proof.Machine
end

section
/-! PROOFS. The statements of 40_display.md about `draw`. The sprite's hits are put in the words of the statements, and then
pixels and collision are the laws of a whole sprite. -/

namespace Sys2Proof.Machine

open Sys2Proof.Claims

/-! ### The sprite in the words of the statements -/

theorem bitLandsOn_iff (edge : SpriteEdge) (x0 y0 r c : Nat) (x : Fin 64) (y : Fin 32) :
    bitLandsOn edge x0 y0 r c x y ↔ spriteTarget edge (x0 + c) (y0 + r) = some (x, y) := by
  cases edge with
  | clip => exact (spriteTarget_clip _ _ x y).symm
  | wrap => exact (spriteTarget_wrap _ _ x y).symm

/-- A draw toggles the pixels its sprite hits. -/
theorem drawToggles_iff (s : State) (vx vy : Reg) (n : Nibble) (x : Fin 64) (y : Fin 32) :
    drawToggles s vx vy n x y ↔
      spriteHits s.cfg.spriteEdge (s.originX vx) (s.originY vy) (s.bytesFrom s.ea n.toNat) x y := by
  simp only [drawToggles, spriteHits, bitLandsOn_iff, State.bytesFrom_getElem?, Option.ite_none_right_eq_some,
    Option.some.injEq]
  constructor
  · rintro ⟨r, hr, c, hc, hbit, hland⟩
    exact ⟨r, _, ⟨hr, rfl⟩, c, hc, hbit, hland⟩
  · rintro ⟨r, _, ⟨hr, rfl⟩, c, hc, hbit, hland⟩
    exact ⟨r, hr, c, hc, hbit, hland⟩

theorem spriteRows_length_le (s : State) (n : Nibble) : (s.bytesFrom s.ea n.toNat).length ≤ 32 := by
  rw [State.bytesFrom_length]
  omega

/-- A completed draw inverts a pixel it toggles and leaves every other one (40_display.md R113). -/
theorem pixelAt_completed_draw (s : State) (vx vy : Reg) (n : Nibble) (x : Fin 64) (y : Fin 32) :
    (drawToggles s vx vy n x y → pixelAt (completed (.draw vx vy n) s).fb x y = !pixelAt s.fb x y) ∧
      (¬drawToggles s vx vy n x y → pixelAt (completed (.draw vx vy n) s).fb x y = pixelAt s.fb x y) := by
  rw [drawToggles_iff]
  exact drawRows_pixel _ _ _ _ (spriteRows_length_le s n) (s.fb, false) x y

/-- A draw collides when a pixel it toggles was on (R114). -/
theorem drawnSprite_collides_iff (s : State) (vx vy : Reg) (n : Nibble) :
    (s.drawnSprite vx vy n).2 = true ↔ ∃ x y, drawToggles s vx vy n x y ∧ pixelAt s.fb x y = true := by
  have hspec := (drawRows_spec s.cfg.spriteEdge (s.originX vx) (s.originY vy) _ (spriteRows_length_le s n) (s.fb, false)).2
  simp only [Bool.false_eq_true, false_or, ← drawToggles_iff] at hspec
  exact hspec

theorem reg15_completed_draw (s : State) (vx vy : Reg) (n : Nibble) :
    (completed (.draw vx vy n) s).reg 15 = collisionFlag (s.drawnSprite vx vy n).2 :=
  (State.reg_setReg s 15 15 _).trans (if_pos rfl)

theorem reg15_completed_draw_eq_one_iff (s : State) (vx vy : Reg) (n : Nibble) :
    (completed (.draw vx vy n) s).reg 15 = 1 ↔ ∃ x y, drawToggles s vx vy n x y ∧ pixelAt s.fb x y = true := by
  rw [reg15_completed_draw, ← drawnSprite_collides_iff]
  cases (s.drawnSprite vx vy n).2 <;> decide

/-! ### The statements -/

/-- Settles O36: `draw` faults on no sprite in bounds, and its completed state is the law of a whole sprite. -/
theorem drawTogglesTheSpritePixels : Obligations.DrawTogglesTheSpritePixels := by
  intro vx vy n s hbound
  have hl : listedFault (.draw vx vy n) s = none := if_neg (by omega)
  refine ⟨_, exec_completes rfl hl,
    fun x y => (pixelAt_completed_draw s vx vy n x y).1, fun x y => (pixelAt_completed_draw s vx vy n x y).2,
    fun r hr => ?registers, rfl, readByte_completed_of_not_store rfl s⟩
  case registers => exact reg_completed id fun hflag => hr hflag.1

/-- Settles O37: register 15 is the collision flag, 1 or 0. -/
theorem drawReportsCollisionInRegister15 : Obligations.DrawReportsCollisionInRegister15 := by
  intro vx vy n s t _ h ht
  obtain ⟨_, rfl⟩ := eq_completed_of_not_faulted h ht
  refine ⟨(reg15_completed_draw_eq_one_iff s vx vy n).2, fun hoff => ?_⟩
  have hnone : (s.drawnSprite vx vy n).2 ≠ true := by
    rw [ne_eq, drawnSprite_collides_iff]
    rintro ⟨x, y, htoggles, hon⟩
    rw [hoff x y htoggles] at hon
    cases hon
  rw [reg15_completed_draw, eq_false_of_ne_true hnone]
  rfl

/-- After a draw that leaves its origin, the same draw toggles the same pixels: it reads the same sprite. -/
theorem drawToggles_completed_draw {s : State} {vx vy : Reg} {n : Nibble}
    (hx : ((completed (.draw vx vy n) s).reg vx).toNat % 64 = (s.reg vx).toNat % 64)
    (hy : ((completed (.draw vx vy n) s).reg vy).toNat % 32 = (s.reg vy).toNat % 32) (x : Fin 64) (y : Fin 32) :
    drawToggles (completed (.draw vx vy n) s) vx vy n x y ↔ drawToggles s vx vy n x y := by
  simp only [drawToggles, hx, hy, readByte_completed_of_not_store (i := .draw vx vy n) rfl s]
  rfl

/-- Settles O38: both draws toggle the same pixels, and a toggled pixel was off before the first draw exactly when it is on
before the second. -/
theorem drawingTwiceRestoresTheFramebuffer : Obligations.DrawingTwiceRestoresTheFramebuffer := by
  intro vx vy n s t u _ hdraw ht hx hy hagain
  obtain ⟨hl, rfl⟩ := eq_completed_of_not_faulted hdraw ht
  obtain ⟨_, rfl⟩ : listedFault (.draw vx vy n) (completed (.draw vx vy n) s) = none ∧ u = completed (.draw vx vy n) _ := by
    rcases exec_next_cases hagain with ⟨f, hf, _⟩ | hc
    · exact absurd (hf.symm.trans hl) nofun
    · exact hc
  have hsame := drawToggles_completed_draw hx hy
  have hfirst := pixelAt_completed_draw s vx vy n
  constructor
  · refine pixelAt_ext fun x y => ?_
    obtain ⟨hon, hoff⟩ := pixelAt_completed_draw (completed (.draw vx vy n) s) vx vy n x y
    by_cases htoggles : drawToggles s vx vy n x y
    · rw [hon ((hsame x y).2 htoggles), (hfirst x y).1 htoggles, Bool.not_not]
    · rw [hoff fun hc => htoggles ((hsame x y).1 hc), (hfirst x y).2 htoggles]
  · rw [reg15_completed_draw_eq_one_iff]
    refine exists₂_congr fun x y => ?_
    rw [hsame x y]
    by_cases htoggles : drawToggles s vx vy n x y
    · rw [(hfirst x y).1 htoggles]
      simp [htoggles]
    · rw [(hfirst x y).2 htoggles]
      simp [htoggles]

end Sys2Proof.Machine
end

section
/-! PROOFS. The statements of 41_control_flow.md about single instructions: jumps, calls, returns and skips. -/

namespace Sys2Proof.Machine

open Sys2Proof.Claims

/-! ### Jumps and skips -/

/-- A completed instruction whose completed state differs in `pc` alone leaves all else. -/
theorem onlyPc_completed {i : Instr} {s : State} (hi : isStore i = false)
    (hpc : completed i s = { s with pc := pcAfter i s }) : onlyPc s (completed i s) :=
  ⟨hpc, readByte_completed_of_not_store hi s⟩

/-- Settles O39: both targets fit 16 bits, and the completed states differ in `pc` alone. -/
theorem jumpsSetThePc : Obligations.JumpsSetThePc := by
  intro nnn s
  exact ⟨⟨_, exec_completes rfl rfl, addrWord_toNat nnn, onlyPc_completed rfl rfl⟩,
    ⟨_, exec_completes rfl rfl, s.offsetTarget_toNat nnn, onlyPc_completed rfl rfl⟩⟩

/-- Settles O43: `pcAfter` is the statement's choice of `pc`, for the same register twice too. -/
theorem skipsCompareAndMoveOnlyThePc : Obligations.SkipsCompareAndMoveOnlyThePc := by
  intro x y kk s
  exact ⟨⟨_, exec_completes rfl rfl, rfl, onlyPc_completed rfl rfl⟩, ⟨_, exec_completes rfl rfl, rfl, onlyPc_completed rfl rfl⟩,
    ⟨_, exec_completes rfl rfl, rfl, onlyPc_completed rfl rfl⟩, ⟨_, exec_completes rfl rfl, rfl, onlyPc_completed rfl rfl⟩⟩

/-! ### Calls and returns -/

theorem exec_call_completes (nnn : Addr12) {s : State} (h : s.sp.toNat < 16) :
    exec (.call nnn) s = .next (completed (.call nnn) s) :=
  exec_of_no_listedFault ((listedFault_call_eq_none nnn s).2 (by omega)) fun _ => by omega

theorem exec_ret_completes {s : State} (hpos : s.sp.toNat ≠ 0) (h : s.sp.toNat ≤ 16) :
    exec .ret s = .next (completed .ret s) :=
  exec_of_no_listedFault ((listedFault_ret_eq_none s).2 hpos) fun _ => h

/-- A push writes the entry at `SP` and no other (10_state.md R28). -/
theorem stackAfter_call (nnn : Addr12) (s : State) (j : Fin 16) :
    (stackAfter (.call nnn) s)[j] = if s.sp.toNat = j.val then s.pc + 2 else s.stack[j] := by
  simp only [stackAfter, Fin.getElem_fin, Vector.getElem_setIfInBounds]

/-- Settles O40: the push is at entry `k`, and `SP` below 16 counts up without wrapping. -/
theorem callPushesTheReturnAddress : Obligations.CallPushesTheReturnAddress := by
  intro nnn s k hk
  refine ⟨_, exec_call_completes nnn (by omega), ?pushed, fun j hj => ?kept, ?sp, addrWord_toNat nnn, rfl,
    readByte_completed_of_not_store rfl s⟩
  case pushed => exact (stackAfter_call nnn s k).trans (if_pos hk)
  case kept => exact (stackAfter_call nnn s j).trans (if_neg fun hsp => hj (Fin.ext (hsp.symm.trans hk)))
  case sp => exact (sp_succ_toNat s.sp (by omega)).trans (by rw [hk])

/-- Settles O41: the entry read is the one below `SP`. -/
theorem returnPopsIntoThePc : Obligations.ReturnPopsIntoThePc := by
  intro s k hk
  refine ⟨_, exec_ret_completes (by omega) (by omega), ?pc, ?sp, rfl, readByte_completed_of_not_store rfl s⟩
  case pc =>
    show s.stackAt (s.sp.toNat - 1) = s.stack[k]
    rw [hk, Nat.add_sub_cancel, State.stackAt_of_lt s k.val k.isLt]
    rfl
  case sp => exact (sp_pred_toNat s.sp (by omega)).trans (by rw [hk, Nat.add_sub_cancel])

/-- From an empty stack `k` calls, up to 16, all complete. -/
theorem callTimes_completes (nnn : Addr12) {s : State} (hs : s.sp = 0) (k : Nat) (hk : k ≤ 16) :
    ∃ t, callTimes nnn k s = .next t ∧ t.sp.toNat = k ∧ t.status = s.status := by
  induction k with
  | zero => exact ⟨s, rfl, by rw [hs]; rfl, rfl⟩
  | succ k ih =>
    obtain ⟨t, ht, hsp, hstatus⟩ := ih (by omega)
    have hcall : callTimes nnn (k + 1) s = exec (.call nnn) t := by rw [callTimes, ht]
    refine ⟨completed (.call nnn) t, hcall.trans (exec_call_completes nnn (by omega)), ?_, hstatus⟩
    exact (sp_succ_toNat t.sp (by omega)).trans (by rw [hsp])

/-- Settles O42: the return reads the entry the call wrote; by induction 16 calls complete, and at `SP` 16 the next one
raises. -/
theorem callsNestSixteenDeepAndReturn : Obligations.CallsNestSixteenDeepAndReturn := by
  constructor
  · intro nnn s t u hsp _ hcall ht hret
    obtain ⟨hl, rfl⟩ := eq_completed_of_not_faulted hcall ht
    have hroom : s.sp.toNat < 16 := Nat.lt_of_le_of_ne hsp ((listedFault_call_eq_none nnn s).1 hl)
    have hsucc : (completed (.call nnn) s).sp.toNat = s.sp.toNat + 1 := sp_succ_toNat s.sp hroom
    rw [exec_ret_completes (by omega) (by omega)] at hret
    cases hret
    refine ⟨?_, BitVec.add_sub_cancel s.sp 1, rfl⟩
    show (completed (.call nnn) s).stackAt ((completed (.call nnn) s).sp.toNat - 1) = s.pc + 2
    rw [hsucc, Nat.add_sub_cancel, State.stackAt_of_lt _ _ hroom]
    exact (stackAfter_call nnn s ⟨s.sp.toNat, hroom⟩).trans (if_pos rfl)
  · intro nnn s hs
    refine ⟨callTimes_completes nnn hs, ?_⟩
    obtain ⟨t, ht, hsp, _⟩ := callTimes_completes nnn hs 16 le_rfl
    have hcall : callTimes nnn 17 s = exec (.call nnn) t := by rw [callTimes, ht]
    have hfull : listedFault (.call nnn) t = some .stackOverflow := if_pos hsp
    exact ⟨_, hcall.trans (exec_of_listedFault hfull), hsp, rfl, rfl⟩

end Sys2Proof.Machine
end

section
/-! PROOFS. The statements of 42_alu.md: copies, logic, sums, differences, shifts and `random`. -/

namespace Sys2Proof.Machine

open Sys2Proof.Claims

/-! ### Writes of one register, and of a result and a flag -/

/-- `exec_writes_oneReg` with the result given bit by bit. -/
theorem exec_writes_bits {i : Instr} {s : State} {x : Reg} {b : Byte} {bit : Nat → Bool}
    (h : exec i s = .next (s.advance.setReg x b)) (hbit : ∀ k, b.getLsbD k = bit k) :
    ∃ t, exec i s = .next t ∧ (∀ k, (t.reg x).getLsbD k = bit k) ∧ (∀ r, r ≠ x → t.reg r = s.reg r) ∧
      t.pc = s.pc + 2 ∧ onlyRegs s t := by
  obtain ⟨t, ht, ⟨hreg, hothers⟩, hframe⟩ := exec_writes_oneReg h
  exact ⟨t, ht, by rw [hreg]; exact hbit, hothers, hframe⟩

/-- An instruction that only advances and writes a result and a flag changes these registers and `pc`, and nothing else;
the flag is written last (10_state.md R22). -/
theorem exec_writes_resultAndFlag {i : Instr} {s : State} {x : Reg} {b : Byte} {flag : Bool}
    (h : exec i s = .next (s.advance.setRegFlag x b (flagByte flag))) :
    ∃ t, exec i s = .next t ∧ resultAndFlag s t x b flag ∧ t.pc = s.pc + 2 ∧ onlyRegs s t := by
  refine ⟨_, h, ⟨?flag, fun hx => ?result, fun r hx h15 => ?others⟩, rfl, rfl, State.readByte_congr rfl rfl⟩
  case flag => rw [State.reg_setRegFlag, if_pos rfl, flagByte]
  case result => rw [State.reg_setRegFlag, if_neg hx, if_pos rfl]
  case others => exact reg_setRegFlag_of_ne hx h15 s.advance b _

/-! ### The results and flags as the statements write them -/

theorem ofNat8_mod (n : Nat) : BitVec.ofNat 8 (n % 256) = BitVec.ofNat 8 n :=
  BitVec.eq_of_toNat_eq (by simp only [BitVec.toNat_ofNat]; omega)

/-- A right shift halves, and shifts the parity out. -/
theorem shr_one (b : Byte) : b >>> 1 = BitVec.ofNat 8 (b.toNat / 2) ∧ b.getLsbD 0 = decide (b.toNat % 2 = 1) := by
  revert b; decide

/-- A left shift doubles modulo 256, and shifts out whether the byte is at least 128. -/
theorem shl_one (b : Byte) : b <<< 1 = BitVec.ofNat 8 (b.toNat * 2 % 256) ∧ b.getLsbD 7 = decide (128 ≤ b.toNat) := by
  revert b; decide

/-! ### The statements -/

/-- Settles O46: the four results go to register `x` alone. -/
theorem logicFormsWriteOneRegister : Obligations.LogicFormsWriteOneRegister := by
  intro x y s
  exact ⟨exec_writes_oneReg rfl, exec_writes_bits rfl fun k => BitVec.getLsbD_or,
    exec_writes_bits rfl fun k => BitVec.getLsbD_and, exec_writes_bits rfl fun k => BitVec.getLsbD_xor⟩

/-- Settles O47: cutting the sum to a byte reduces it modulo 256, and the carry is the flag. -/
theorem aluAddWritesSumAndCarry : Obligations.AluAddWritesSumAndCarry := by
  intro x y s
  rw [ofNat8_mod]
  exact exec_writes_resultAndFlag rfl

/-- Settles O48: the difference plus 256, cut to a byte, is the difference of bytes. -/
theorem subtractionsWriteDifferenceAndNotBorrow : Obligations.SubtractionsWriteDifferenceAndNotBorrow := by
  intro x y s
  rw [← subByte_eq, ← subByte_eq]
  exact ⟨exec_writes_resultAndFlag rfl, exec_writes_resultAndFlag rfl⟩

/-- Settles O49: the source is the shift operand, and its shift and bit are the statement's half or double and flag. -/
theorem shiftsWriteResultAndBitShiftedOut : Obligations.ShiftsWriteResultAndBitShiftedOut := by
  intro x y s src
  have hsrc : src = s.shiftOperand x y := (s.shiftOperand_eq x y).symm
  obtain ⟨hhalf, hlow⟩ := shr_one src
  obtain ⟨hdouble, hhigh⟩ := shl_one src
  rw [← hhalf, ← hlow, ← hdouble, ← hhigh, hsrc]
  exact ⟨exec_writes_resultAndFlag rfl, exec_writes_resultAndFlag rfl⟩

/-- Settles O50: register `x` is the masked byte, and a mask only clears bits. -/
theorem randomMasksAFreshByte : Obligations.RandomMasksAFreshByte := by
  intro x kk s
  have hreg : oneReg s (completed (.random x kk) s) x (Config.randomByte s.draws &&& kk) := oneReg_setReg s x _
  refine ⟨_, exec_completes rfl rfl, hreg, rfl, fun k hk => ?_, ?_, rfl, readByte_completed_of_not_store rfl s⟩
  · rw [hreg.1, BitVec.getLsbD_and, Bool.and_eq_true] at hk
    exact hk.2
  · rintro rfl
    rw [hreg.1]
    exact BitVec.and_zero

end Sys2Proof.Machine
end

section
/-! PROOFS. The statements of 43_index_memory.md and 20_memory.md section 5: the index register, the stores and the block
load, and a stored word at the next fetch. -/

namespace Sys2Proof.Machine

open Sys2Proof.Claims

/-! ### The index register -/

/-- Settles O52: `I` is the exact sum cut to 16 bits, and register 15 is written only where the parameter says so. -/
theorem addToIndexAddsExactly : Obligations.AddToIndexAddsExactly := by
  intro x s
  refine ⟨_, exec_completes rfl rfl, ?index, fun hcfg => ?flag, fun hcfg r => ?noFlag, rfl,
    readByte_completed_of_not_store rfl s⟩
  case index => exact BitVec.toNat_ofNat _ 16
  case flag =>
    have hv : (completed (.addToIndex x) s).v = (s.setReg 15 (indexOverflowByte (s.indexSum x))).v := if_pos hcfg
    obtain ⟨h15, hothers⟩ := oneReg_setReg s 15 (indexOverflowByte (s.indexSum x))
    refine ⟨?_, fun r hr => (State.reg_congr hv r).trans (hothers r hr)⟩
    rw [State.reg_congr hv, h15, indexOverflowByte, flagByte, State.indexSum]
    simp only [decide_eq_true_iff]
  case noFlag => exact reg_completed id fun hc => by rw [writesFlag, hcfg] at hc; exact Bool.false_ne_true hc.2

/-- Settles O53: a digit faults on nothing, and the glyph's address does not wrap. -/
theorem loadFontAddressPointsAtTheGlyph : Obligations.LoadFontAddressPointsAtTheGlyph := by
  intro x s hdigit
  have hl : listedFault (.loadFontAddress x) s = none := if_neg (by omega)
  refine ⟨_, exec_completes rfl hl, ?index, rfl, rfl, readByte_completed_of_not_store rfl s⟩
  case index =>
    refine (fontAddress_toNat s.cfg (s.reg x)).trans ?_
    cases s.cfg.fontBase <;> rfl

/-- `I` after a block transfer, under either value of `LOAD_STORE_INCREMENT` (43_index_memory.md R216). -/
theorem State.blockIndex_spec (s : State) (x : Reg) :
    (s.cfg.loadStoreIncrement = .none → s.blockIndex x = s.index) ∧
      (s.cfg.loadStoreIncrement = .xPlusOne → (s.blockIndex x).toNat = (s.index.toNat + x.val + 1) % 65536) := by
  refine ⟨fun h => if_neg (by rw [h]; decide), fun h => ?_⟩
  rw [State.blockIndex, if_pos h]
  exact BitVec.toNat_ofNat _ 16

/-! ### The stores -/

/-- A completed store leaves its `k`-th byte at `I + k`. -/
theorem readByte_completed_stored {i : Instr} {s : State} {k : Nat} {b : Byte} (h : (storedBytes i s)[k]? = some b) :
    (completed i s).readByte (s.ea + k) = b := by
  have hlt : k < (storedBytes i s).length := (List.getElem?_eq_some_iff.1 h).1
  rw [readByte_completed, if_pos (by omega), Nat.add_sub_cancel_left, h, Option.getD_some]

/-- A completed store leaves every byte outside its range. -/
theorem readByte_completed_outside {i : Instr} {s : State} {a : Nat}
    (h : a < s.ea ∨ s.ea + (storedBytes i s).length ≤ a) : (completed i s).readByte a = s.readByte a := by
  rw [readByte_completed, if_neg (by omega)]

theorem bcdDigits_toNat (b : Byte) :
    (BitVec.ofNat 8 (b.toNat / 100)).toNat = b.toNat / 100 ∧
      (BitVec.ofNat 8 (b.toNat / 10 % 10)).toNat = b.toNat / 10 % 10 ∧
      (BitVec.ofNat 8 (b.toNat % 10)).toNat = b.toNat % 10 := by
  have hb := b.isLt
  simp only [BitVec.toNat_ofNat]
  omega

/-- Settles O54: the three bytes are the digits, which make up the byte. -/
theorem storeBcdStoresThreeDigits : Obligations.StoreBcdStoresThreeDigits := by
  intro x s hbound hfree
  have hl := (listedFault_storeBcd_eq_none x s).2 ⟨hbound, hfree⟩
  have hb := (s.reg x).isLt
  obtain ⟨hhundreds, htens, hones⟩ := bcdDigits_toNat (s.reg x)
  have h0 : (completed (.storeBcd x) s).readByte s.ea = _ := readByte_completed_stored (k := 0) rfl
  have h1 : (completed (.storeBcd x) s).readByte (s.ea + 1) = _ := readByte_completed_stored (k := 1) rfl
  have h2 : (completed (.storeBcd x) s).readByte (s.ea + 2) = _ := readByte_completed_stored (k := 2) rfl
  refine ⟨_, exec_completes rfl hl, ?_, ?_, ?_, ?_, fun a ha => ?others, rfl⟩
  case others =>
    exact readByte_completed_outside (ha.imp_right fun hlt => by rw [storedBytes, bcdDigits_length]; omega)
  all_goals simp only [h0, h1, h2, hhundreds, htens, hones]; omega

/-- A completed `store-registers` leaves `V[k]` at `I + k`. -/
theorem readByte_completed_storeRegisters (s : State) {x k : Reg} (hk : k ≤ x) :
    (completed (.storeRegisters x) s).readByte (s.ea + k.val) = s.reg k :=
  readByte_completed_stored (s.regBlock_getElem? x k.val hk)

/-- Settles O55: the block is `V[0]` to `V[x]`, and `I` is `blockIndex`. -/
theorem storeRegistersStoresTheBlock : Obligations.StoreRegistersStoresTheBlock := by
  intro x s hbound hfree
  have hl := (listedFault_storeRegisters_eq_none x s).2 ⟨hbound, hfree⟩
  obtain ⟨hnone, hxPlusOne⟩ := s.blockIndex_spec x
  refine ⟨_, exec_completes rfl hl, fun k hk => readByte_completed_storeRegisters s hk, fun a ha => ?others, hnone,
    hxPlusOne, rfl⟩
  case others =>
    exact readByte_completed_outside (ha.imp_right fun hlt => by rw [storedBytes, State.regBlock_length]; omega)

/-- Settles O57: the two bytes at the new `pc` are the stored ones, in bounds since the store was. -/
theorem storeIsSeenByTheNextFetch : Obligations.StoreIsSeenByTheNextFetch := by
  intro x s t j k _ h ht hkj hkx hpc
  obtain ⟨hl, rfl⟩ := eq_completed_of_not_faulted h ht
  obtain ⟨hbound, _⟩ := (listedFault_storeRegisters_eq_none x s).1 hl
  have hkx' : k.val ≤ x.val := hkx
  have hjx : j ≤ x := Fin.le_def.2 (by omega)
  have hnext : (completed (.storeRegisters x) s).pc.toNat + 1 = s.ea + k.val := by omega
  refine ⟨joinBytes (s.reg j) (s.reg k), ?_, joinBytes_toNat _ _⟩
  rw [State.fetchWord_eq, hnext, if_pos (by omega), hpc, readByte_completed_storeRegisters s hjx,
    readByte_completed_storeRegisters s hkx]

/-! ### The block load -/

/-- Settles O56: the `k`-th byte read is at `I + k` and lands in register `k`, and `I` is `blockIndex`. -/
theorem loadRegistersLoadsTheBlock : Obligations.LoadRegistersLoadsTheBlock := by
  intro x s hbound
  have hl : listedFault (.loadRegisters x) s = none := if_neg (by omega)
  obtain ⟨hnone, hxPlusOne⟩ := s.blockIndex_spec x
  refine ⟨_, exec_completes rfl hl, fun k hk => ?loaded, fun k hk => ?kept, hnone, hxPlusOne, rfl,
    readByte_completed_of_not_store rfl s⟩
  case loaded =>
    have hlt : k.val < x.val + 1 := Nat.lt_succ_of_le hk
    refine (State.reg_setRegs s _ k).trans ?_
    rw [State.bytesFrom_length, if_pos hlt, State.bytesFrom_getElem?, if_pos hlt, Option.getD_some]
  case kept => exact reg_completed (not_le.2 hk) fun hflag => Bool.false_ne_true hflag.2

end Sys2Proof.Machine
end

section
/-! PROOFS. The statements of 44_keys_timers.md: the key skips, the timer transfers and `wait-for-key`. -/

namespace Sys2Proof.Machine

open Sys2Proof.Claims

/-- Settles O58: a register that holds a key index faults on nothing, and `keyDown` is that key of the snapshot. -/
theorem keySkipsTestTheSnapshot : Obligations.KeySkipsTestTheSnapshot := by
  intro x s k hk
  have hvalid : ¬(s.reg x).toNat > 15 := by omega
  have hdown : keyDown s x = s.keys[k] := by
    rw [keyDown, hk, Vector.getElem?_eq_getElem k.isLt]
    rfl
  have hpressed : listedFault (.skipIfKeyPressed x) s = none := if_neg hvalid
  have hnotPressed : listedFault (.skipIfKeyNotPressed x) s = none := if_neg hvalid
  rw [← hdown]
  exact ⟨⟨_, exec_completes rfl hpressed, rfl, onlyPc_completed rfl rfl⟩,
    ⟨_, exec_completes rfl hnotPressed, rfl, onlyPc_completed rfl rfl⟩⟩

/-- Settles O59: one write of a register, and one write of each timer. -/
theorem timerTransfersCopyTheByte : Obligations.TimerTransfersCopyTheByte := by
  intro x s
  exact ⟨exec_writes_oneReg rfl, ⟨_, exec_completes rfl rfl, rfl, readByte_completed_of_not_store rfl s⟩,
    ⟨_, exec_completes rfl rfl, rfl, readByte_completed_of_not_store rfl s⟩⟩

/-- Settles O60: the lowest key of the snapshot decides between the whole old state and one register write. -/
theorem waitForKeyTakesTheLowestKey : Obligations.WaitForKeyTakesTheLowestKey := by
  intro x s
  constructor
  · intro hnone
    rw [exec_waitForKey, (lowestKey_none s.keys).2 hnone]
  · intro k hk hlower
    have hexec : exec (.waitForKey x) s = .next (s.advance.setReg x (keyByte k)) := by
      rw [exec_waitForKey, (lowestKey_some s.keys k).2 ⟨hk, hlower⟩]
    obtain ⟨t, ht, ⟨hreg, hothers⟩, hframe⟩ := exec_writes_oneReg hexec
    refine ⟨t, ht, ?_, hothers, hframe⟩
    rw [hreg, keyByte, BitVec.toNat_ofNat]
    omega

end Sys2Proof.Machine
end
